-- ==== Sys2Proof/Word.lean ====
section
/-! DEFINITION. The widths of the hardware (spec 00_scope.md R7, R9): the byte, the 16-bit word, the 12-bit immediate
address, and the indexes of the registers and the keys. -/

namespace Sys2Proof

/-- An 8-bit unsigned value: a general register, a timer, a memory cell, the immediate NN (R9, R13, R34). -/
abbrev Byte := BitVec 8

/-- A 16-bit unsigned value: an instruction word, pc, I, a stack entry (R9, R17, R18, R21). -/
abbrev Word := BitVec 16

/-- The 12-bit immediate NNN (R53). -/
abbrev Addr := BitVec 12

/-- The index of a general register V0 to VF (R13); also the 4-bit fields X and Y (R11). -/
abbrev Reg := Fin 16

/-- The index of a key 0x0 to 0xF (R25). -/
abbrev Key := Fin 16

/-- A column of the framebuffer, 0 to 63 (R24). -/
abbrev Column := Fin 64

/-- A row of the framebuffer, 0 to 31 (R24). -/
abbrev Row := Fin 32

/-- Register 15, which some instructions also write as a flag (R13, R14). -/
abbrev vf : Reg := 15

end Sys2Proof
end

