-- ==== Sys2Proof/Config.lean ====
section
/-! DEFINITION. What an implementation fixes. The fixed parameters of spec 00_scope.md R7 are numbers; the OPEN parameters
of R8 are constants without a body, so that nothing can evaluate them and a claim holds for every value of them. -/

namespace Sys2Proof.Config

/-- MEM_SIZE (R7): addresses 0x000 to 0xFFF. -/
abbrev memSize : Nat := 4096

/-- The number of bytes of the built-in font (R7): 16 glyphs of 5 bytes. -/
abbrev fontSize : Nat := 80

/-- The number of bytes of one glyph (R7, R36). -/
abbrev glyphBytes : Nat := 5

/-- PROG_BASE (R7): where a program is loaded. -/
abbrev progBase : Nat := 0x200

/-- MAX_ROM (R7): 4096 − 0x200 bytes. -/
abbrev maxRom : Nat := 3584

/-- PC_RESET (R7). -/
abbrev pcReset : Word := 0x200

/-- STACK_DEPTH (R7). -/
abbrev stackDepth : Nat := 16

/-- FB_W (R7). -/
abbrev fbWidth : Nat := 64

/-- FB_H (R7). -/
abbrev fbHeight : Nat := 32

/-- INDEX_ADVANCE (R8, R100, R101, D9), OPEN: whether FX55 and FX65 advance I by X+1. Log entry 3. -/
opaque indexAdvance : Bool

/-- FONT (R8, R37, D4), OPEN: the byte that reset puts at address `a`, for `a` below 80. Log entry 2. -/
opaque font : Nat → Byte

/-- RNG_SEED (R8, R29, D10), OPEN: the random-source state that reset sets. Log entry 4. -/
opaque rngSeed : Nat

/-- RNG_NEXT (R8, R87, D10), OPEN: from a random-source state, the byte it gives and the next state. Log entry 4. -/
opaque rngNext : Nat → Byte × Nat

/-- The DEFAULT font table of R37, which the spec marks as general knowledge (PRESUMED, log entry 2). The machine does not
use it: a claim about glyph pixels takes `font` equal to this table as a hypothesis. -/
def defaultFont : List Byte :=
  [0xF0, 0x90, 0x90, 0x90, 0xF0, 0x20, 0x60, 0x20, 0x20, 0x70] ++
  [0xF0, 0x10, 0xF0, 0x80, 0xF0, 0xF0, 0x10, 0xF0, 0x10, 0xF0] ++
  [0x90, 0x90, 0xF0, 0x10, 0x10, 0xF0, 0x80, 0xF0, 0x10, 0xF0] ++
  [0xF0, 0x80, 0xF0, 0x90, 0xF0, 0xF0, 0x10, 0x20, 0x40, 0x40] ++
  [0xF0, 0x90, 0xF0, 0x90, 0xF0, 0xF0, 0x90, 0xF0, 0x10, 0xF0] ++
  [0xF0, 0x90, 0xF0, 0x90, 0x90, 0xE0, 0x90, 0xE0, 0x90, 0xE0] ++
  [0xF0, 0x80, 0x80, 0x80, 0xF0, 0xE0, 0x90, 0x90, 0x90, 0xE0] ++
  [0xF0, 0x80, 0xF0, 0x80, 0xF0, 0xF0, 0x80, 0xF0, 0x80, 0x80]

/-- The hypothesis under which a claim may rest on the default glyphs (R37, D4). -/
abbrev FontIsDefault : Prop := ∀ a, a < fontSize → font a = defaultFont.getD a 0

/-- The three regions of the address map (R35). All three are ordinary read/write memory to the instructions (R38). -/
inductive Region where
  | font
  | reserved
  | program
  deriving DecidableEq, Repr

/-- The region of an address (R35); no region above 0xFFF. -/
def regionOf (a : Nat) : Option Region :=
  if a < fontSize then some .font
  else if a < progBase then some .reserved
  else if a < memSize then some .program
  else none

end Sys2Proof.Config
end

