-- ==== Sys2Proof/Syntax.lean ====
section
/-! DEFINITION. The instructions: one constructor for each of the 35 rows of spec/opcode_table.json, with the operand
fields its format names (spec 30_encoding.md R52, R53), and their assembler spelling (R62, R63). -/

namespace Sys2Proof

/-- One constructor per row of the opcode table (R2, R57). `x` and `y` are register fields, `nn` an 8-bit and `nnn` a 12-bit
immediate, `n` the 4-bit row count (R53). -/
inductive Instr where
  /-- 00E0 (R64) -/
  | clear
  /-- 00EE, the spec's `return` (R65) -/
  | ret
  /-- 0NNN except 00E0 and 00EE (R66) -/
  | sys (nnn : Addr)
  /-- 1NNN (R67) -/
  | jump (nnn : Addr)
  /-- 2NNN (R68) -/
  | call (nnn : Addr)
  /-- 3XNN (R69) -/
  | skipEqImm (x : Reg) (nn : Byte)
  /-- 4XNN (R70) -/
  | skipNeqImm (x : Reg) (nn : Byte)
  /-- 5XY0 (R71) -/
  | skipEqReg (x y : Reg)
  /-- 6XNN (R72) -/
  | loadImm (x : Reg) (nn : Byte)
  /-- 7XNN (R73) -/
  | addImm (x : Reg) (nn : Byte)
  /-- 8XY0 (R75) -/
  | copy (x y : Reg)
  /-- 8XY1, the spec's `or` (R76) -/
  | orReg (x y : Reg)
  /-- 8XY2, the spec's `and` (R77) -/
  | andReg (x y : Reg)
  /-- 8XY3, the spec's `xor` (R78) -/
  | xorReg (x y : Reg)
  /-- 8XY4 (R79) -/
  | addReg (x y : Reg)
  /-- 8XY5 (R80) -/
  | subReg (x y : Reg)
  /-- 8XY6; y is encoded but not read (R81) -/
  | shiftRight (x y : Reg)
  /-- 8XY7 (R82) -/
  | subnReg (x y : Reg)
  /-- 8XYE; y is encoded but not read (R83) -/
  | shiftLeft (x y : Reg)
  /-- 9XY0 (R84) -/
  | skipNeqReg (x y : Reg)
  /-- ANNN (R85) -/
  | setIndex (nnn : Addr)
  /-- BNNN (R86) -/
  | jumpIndexed (nnn : Addr)
  /-- CXNN (R87) -/
  | random (x : Reg) (nn : Byte)
  /-- DXYN (R89) -/
  | drawSprite (x y : Reg) (n : Fin 16)
  /-- EX9E (R90) -/
  | skipIfPressed (x : Reg)
  /-- EXA1 (R91) -/
  | skipIfNotPressed (x : Reg)
  /-- FX07 (R92) -/
  | getDelay (x : Reg)
  /-- FX0A (R93) -/
  | waitKey (x : Reg)
  /-- FX15 (R95) -/
  | setDelay (x : Reg)
  /-- FX18 (R96) -/
  | setSound (x : Reg)
  /-- FX1E (R97) -/
  | addIndex (x : Reg)
  /-- FX29 (R98) -/
  | fontIndex (x : Reg)
  /-- FX33 (R99) -/
  | storeBcd (x : Reg)
  /-- FX55 (R100) -/
  | storeRegs (x : Reg)
  /-- FX65 (R101) -/
  | loadRegs (x : Reg)
  deriving DecidableEq, Repr

/-- The hexadecimal digit of a value below 16. -/
def hexDigit (d : Fin 16) : String :=
  ["0", "1", "2", "3", "4", "5", "6", "7", "8", "9", "A", "B", "C", "D", "E", "F"].getD d.val ""

/-- `V0` to `VF` (R62). -/
def regName (r : Reg) : String := "V" ++ hexDigit r

/-- An 8-bit immediate in hexadecimal (R62). -/
def hexByte (b : Byte) : String :=
  "0x" ++ hexDigit (b.extractLsb' 4 4).toFin ++ hexDigit (b.extractLsb' 0 4).toFin

/-- A 12-bit immediate in hexadecimal (R62). -/
def hexAddr (a : Addr) : String :=
  "0x" ++ hexDigit (a.extractLsb' 8 4).toFin ++ hexDigit (a.extractLsb' 4 4).toFin ++ hexDigit (a.extractLsb' 0 4).toFin

/-- `mnemonic VX, VY` (R62). -/
def asmXY (mnemonic : String) (x y : Reg) : String := mnemonic ++ " " ++ regName x ++ ", " ++ regName y

/-- `mnemonic VX, NN` (R62). -/
def asmXNN (mnemonic : String) (x : Reg) (nn : Byte) : String := mnemonic ++ " " ++ regName x ++ ", " ++ hexByte nn

/-- `mnemonic VX` (R62). -/
def asmX (mnemonic : String) (x : Reg) : String := mnemonic ++ " " ++ regName x

/-- `mnemonic NNN` (R62). -/
def asmNNN (mnemonic : String) (nnn : Addr) : String := mnemonic ++ " " ++ hexAddr nnn

/-- The instruction in the assembly language of R62: the "syntax" field of its row of spec/opcode_table.json. -/
def Instr.assembly : Instr → String
  | .clear => "clear"
  | .ret => "return"
  | .sys nnn => asmNNN "sys" nnn
  | .jump nnn => asmNNN "jump" nnn
  | .call nnn => asmNNN "call" nnn
  | .skipEqImm x nn => asmXNN "skip-eq-imm" x nn
  | .skipNeqImm x nn => asmXNN "skip-neq-imm" x nn
  | .skipEqReg x y => asmXY "skip-eq-reg" x y
  | .loadImm x nn => asmXNN "load-imm" x nn
  | .addImm x nn => asmXNN "add-imm" x nn
  | .copy x y => asmXY "copy" x y
  | .orReg x y => asmXY "or" x y
  | .andReg x y => asmXY "and" x y
  | .xorReg x y => asmXY "xor" x y
  | .addReg x y => asmXY "add-reg" x y
  | .subReg x y => asmXY "sub-reg" x y
  | .shiftRight x y => asmXY "shift-right" x y
  | .subnReg x y => asmXY "subn-reg" x y
  | .shiftLeft x y => asmXY "shift-left" x y
  | .skipNeqReg x y => asmXY "skip-neq-reg" x y
  | .setIndex nnn => asmNNN "set-index" nnn
  | .jumpIndexed nnn => asmNNN "jump-indexed" nnn
  | .random x nn => asmXNN "random" x nn
  | .drawSprite x y n => asmXY "draw-sprite" x y ++ ", 0x" ++ hexDigit n
  | .skipIfPressed x => asmX "skip-if-pressed" x
  | .skipIfNotPressed x => asmX "skip-if-not-pressed" x
  | .getDelay x => asmX "get-delay" x
  | .waitKey x => asmX "wait-key" x
  | .setDelay x => asmX "set-delay" x
  | .setSound x => asmX "set-sound" x
  | .addIndex x => asmX "add-index" x
  | .fontIndex x => asmX "font-index" x
  | .storeBcd x => asmX "store-bcd" x
  | .storeRegs x => asmX "store-regs" x
  | .loadRegs x => asmX "load-regs" x

/-- The traditional spelling of R63 (operation name and fixed operands; general knowledge of the spec, notation only). -/
def Instr.traditional : Instr → String
  | .clear => "CLS"
  | .ret => "RET"
  | .sys _ => "SYS addr"
  | .jump _ => "JP addr"
  | .call _ => "CALL addr"
  | .skipEqImm _ _ => "SE Vx, byte"
  | .skipNeqImm _ _ => "SNE Vx, byte"
  | .skipEqReg _ _ => "SE Vx, Vy"
  | .loadImm _ _ => "LD Vx, byte"
  | .addImm _ _ => "ADD Vx, byte"
  | .copy _ _ => "LD Vx, Vy"
  | .orReg _ _ => "OR Vx, Vy"
  | .andReg _ _ => "AND Vx, Vy"
  | .xorReg _ _ => "XOR Vx, Vy"
  | .addReg _ _ => "ADD Vx, Vy"
  | .subReg _ _ => "SUB Vx, Vy"
  | .shiftRight _ _ => "SHR Vx, Vy"
  | .subnReg _ _ => "SUBN Vx, Vy"
  | .shiftLeft _ _ => "SHL Vx, Vy"
  | .skipNeqReg _ _ => "SNE Vx, Vy"
  | .setIndex _ => "LD I, addr"
  | .jumpIndexed _ => "JP V0, addr"
  | .random _ _ => "RND Vx, byte"
  | .drawSprite _ _ _ => "DRW Vx, Vy, nibble"
  | .skipIfPressed _ => "SKP Vx"
  | .skipIfNotPressed _ => "SKNP Vx"
  | .getDelay _ => "LD Vx, DT"
  | .waitKey _ => "LD Vx, K"
  | .setDelay _ => "LD DT, Vx"
  | .setSound _ => "LD ST, Vx"
  | .addIndex _ => "ADD I, Vx"
  | .fontIndex _ => "LD F, Vx"
  | .storeBcd _ => "LD B, Vx"
  | .storeRegs _ => "LD [I], Vx"
  | .loadRegs _ => "LD Vx, [I]"

end Sys2Proof
end

