-- ==== Sys2Proof/Machine/State.lean ====
section
/-! DEFINITION. Everything the spec gives the machine (spec 10_state.md R13–R33, 20_memory.md R34), as plain data; the
outcomes a step of this model can have beside a next state; and the state after reset. -/

namespace Sys2Proof.Machine

/-- The reasons a step could stop with a fault: NONE, so this type has no constructor (log entry 5). Every fatal condition of
R103 is a state the spec describes (RUN = HALTED, FAULT = its code, R104), so it is a NEXT state; R102 says "the core never
aborts the process itself". Safe: nothing the spec lets go on is stopped. -/
inductive Fault
  deriving DecidableEq, Repr

/-- The reasons a step could be refused. -/
inductive Refusal where
  /-- Raised by an arm of `exec` whose instruction has no meaning yet; no arm of this model raises it. Safe. -/
  | notModelled (mnemonic : String)
  deriving DecidableEq, Repr

/-- The run state RUN (R27, R30). -/
inductive RunState where
  /-- reset, no program loaded yet -/
  | unloaded
  /-- a program was loaded and no fatal condition has occurred -/
  | running
  /-- a fatal condition occurred; only reset leaves it -/
  | halted
  deriving DecidableEq, Repr

/-- The 2-bit encoding of RUN (R30); 3 is never held. -/
def RunState.encoding : RunState → BitVec 2
  | .unloaded => 0
  | .running => 1
  | .halted => 2

/-- The fault register FAULT: NONE or the code of the fatal condition that halted the core (R28, R103). -/
inductive FatalCode where
  /-- no fatal condition -/
  | none
  /-- a ROM longer than 3584 bytes; raised by `load_program` (R39) -/
  | capacityExceeded
  /-- `call` with SP = 16 (R68) -/
  | stackOverflow
  /-- `return` with SP = 0 (R65) -/
  | stackUnderflow
  /-- a memory address above 0xFFF; raised by the fetch, DXYN, FX33, FX55, FX65 (R55, R89, R99–R101) -/
  | addressOutOfRange
  /-- a key index above 0xF; raised by EX9E, EXA1 (R90, R91) -/
  | keyIndexOutOfRange
  deriving DecidableEq, Repr

/-- The numeric code of R103, 3 bits (R30); 6 and 7 are never held. -/
def FatalCode.encoding : FatalCode → BitVec 3
  | .none => 0
  | .capacityExceeded => 1
  | .stackOverflow => 2
  | .stackUnderflow => 3
  | .addressOutOfRange => 4
  | .keyIndexOutOfRange => 5

/-- The status that `step` or `load_program` hands to the host (R108, R39). -/
inductive Status where
  /-- an instruction executed and completed, or a load succeeded -/
  | ok
  /-- FX0A found no key pressed (R93) -/
  | waitKey
  /-- the word was UNKNOWN or `sys` (R60, R66, R107) -/
  | unknownOpcode (w : Word)
  /-- a fatal condition arose, or RUN was already HALTED (R104, R106) -/
  | fatal (code : FatalCode)
  /-- `step` with RUN = UNLOADED (R113) -/
  | notRunning
  /-- `load_program` with RUN ≠ UNLOADED (R39) -/
  | notAccepted
  deriving DecidableEq, Repr

/-- The memory as the list of cells that differ from what an unlisted address reads as, in rising order of address
(`Memory.wf` in Machine/Ops.lean says so; R34). -/
abbrev Memory := List Host.Cell

/-- The framebuffer (R24): 32 rows of 64 one-bit cells, the row index first, true meaning a set cell. -/
abbrev Framebuffer := Vector (Vector Bool 64) 32

/-- The architectural state (R13–R30), and the status last handed out. -/
structure State where
  /-- the general registers V0 to VF (R13, R14) -/
  v : Vector Byte 16
  /-- the index register I (R17) -/
  index : Word
  /-- the program counter (R18, R19) -/
  pc : Word
  /-- the stack pointer SP, the number of valid stack entries, 0 to 16 (R20) -/
  sp : Fin 17
  /-- the call stack STACK[0..15], outside the address space (R21) -/
  stack : Vector Word 16
  /-- the delay timer DT (R22) -/
  dt : Byte
  /-- the sound timer ST (R23) -/
  st : Byte
  /-- the framebuffer FB (R24) -/
  fb : Framebuffer
  /-- the keyboard state KEY[0..15], true meaning pressed (R25) -/
  keys : Vector Bool 16
  /-- the redraw flag REDRAW (R26) -/
  redraw : Bool
  /-- the run state RUN (R27) -/
  run : RunState
  /-- the fault register FAULT (R28) -/
  fault : FatalCode
  /-- the random-source state RNG (R29); its type is the model's choice (log entry 4) -/
  rng : Nat
  /-- the address space MEM[0x000..0xFFF] (R34) -/
  mem : Memory
  /-- the status last returned to the host (R108): the MODEL's own field, since `Host.Outcome` carries none (log entry 1) -/
  status : Status
  deriving DecidableEq, Repr

/-- The blank framebuffer (R31). -/
def blankFb : Framebuffer := Vector.replicate 32 (Vector.replicate 64 false)

/-- The state after reset (R31, R126). Memory lists nothing: an unlisted address reads as its reset contents (R40). The
status is the model's own field and starts as OK (DESIGN CHOICE, log entry 1). -/
def State.reset : State where
  v := Vector.replicate 16 0x00
  index := 0x0000
  pc := Config.pcReset
  sp := 0
  stack := Vector.replicate 16 0x0000
  dt := 0
  st := 0
  fb := blankFb
  keys := Vector.replicate 16 false
  redraw := false
  run := .unloaded
  fault := .none
  rng := Config.rngSeed
  mem := []
  status := .ok

end Sys2Proof.Machine
end

