-- ==== Sys2Proof/Machine/Ops.lean ====
section
/-! DEFINITION. The named operations over memory, registers, the stack, the framebuffer, the timers and the random source
that the meanings are written with, and the one entry to the halted state (spec 20_memory.md, 10_state.md, 60_exceptions.md). -/

namespace Sys2Proof.Machine

/-! ### The open parameters, read in one place each -/

/-- INDEX_ADVANCE (R8): the one place where the machine reads it. Open; log entry 3. -/
def indexAdvance : Bool := Config.indexAdvance

/-- FONT (R8, R37): the one place where the machine reads it. Open; log entry 2. -/
def fontByte (a : Nat) : Byte := Config.font a

/-- RNG_NEXT (R8, R87): the one place where the machine reads it. Open; log entry 4. -/
def rngNext (n : Nat) : Byte × Nat := Config.rngNext n

/-! ### Memory (R34–R49) -/

/-- What an unlisted address reads as: the reset contents, FONT below 0x050 and 0x00 above (R37, R40). -/
def Memory.unlisted (a : Nat) : Byte := if a < Config.fontSize then fontByte a else 0x00

/-- `MemRead(a, 1)` (R42): the byte at `a`. The callers check `a ≤ 0xFFF` first (R41). -/
def Memory.readByte : Memory → Nat → Byte
  | [], a => Memory.unlisted a
  | (b, w) :: rest, a => if a = b then w else Memory.readByte rest a

/-- Lists the value at its place in the rising order of addresses, over any value listed there. -/
def Memory.insertCell : Memory → Nat → Byte → Memory
  | [], a, x => [(a, x)]
  | (b, w) :: rest, a, x =>
    if a < b then (a, x) :: (b, w) :: rest
    else if a = b then (a, x) :: rest
    else (b, w) :: Memory.insertCell rest a x

/-- Takes every entry of the address off the list, so that it reads as unlisted. -/
def Memory.eraseCell : Memory → Nat → Memory
  | [], _ => []
  | (b, w) :: rest, a => if a = b then Memory.eraseCell rest a else (b, w) :: Memory.eraseCell rest a

/-- `MemWrite(a, 1, x)` (R42), keeping the canonical form: writing the value an unlisted address reads as removes the entry.
Writes below 0x200 are performed like any other (R38). -/
def Memory.writeByte (m : Memory) (a : Nat) (x : Byte) : Memory :=
  if x = Memory.unlisted a then m.eraseCell a else m.insertCell a x

/-- `MemWrite` of each byte in turn at consecutive rising addresses (R45, R99, R100, R39). -/
def Memory.writeBytes : Memory → Nat → List Byte → Memory
  | m, _, [] => m
  | m, a, x :: xs => Memory.writeBytes (m.writeByte a x) (a + 1) xs

/-- Every listed address is at least `low`, rising, inside the address space, and holds a value that differs from what it would
read as unlisted. -/
def Memory.wfFrom : Nat → Memory → Bool
  | _, [] => true
  | low, (a, x) :: rest =>
    decide (low ≤ a) && decide (a < Config.memSize) && x != Memory.unlisted a && Memory.wfFrom (a + 1) rest

/-- The canonical form: addresses strictly rising and below 4096 (R34), and no entry equal to what its address reads as
unlisted. Equal memories are then equal lists. -/
def Memory.wf (m : Memory) : Bool := Memory.wfFrom 0 m

/-- The byte at an address in a state (R42). -/
def State.readByte (s : State) (a : Nat) : Byte := s.mem.readByte a

/-- The state with bytes stored from an address on (R42). -/
def State.storeBytes (s : State) (a : Nat) (xs : List Byte) : State := { s with mem := s.mem.writeBytes a xs }

/-! ### General registers (R13, R14) -/

/-- `V[x]`. -/
def State.getV (s : State) (x : Reg) : Byte := s.v[x]

/-- `V[x] <- b`. VF is ordinary storage (R14). -/
def State.setV (s : State) (x : Reg) (b : Byte) : State := { s with v := s.v.set x b }

/-- VF written as a flag, 1 or 0 (R14, R16). -/
def State.setFlag (s : State) (f : Bool) : State := s.setV vf (if f then 1 else 0)

/-- `I <- a`. -/
def State.setIndex (s : State) (a : Word) : State := { s with index := a }

/-! ### The program counter (R18, R19) -/

/-- `pc <- a`. -/
def State.setPc (s : State) (a : Word) : State := { s with pc := a }

/-- `pc <- pc + n`, 16 bits (R9, R18). -/
def State.advance (s : State) (n : Word) : State := s.setPc (s.pc + n)

/-- A skip passes over one word when its condition holds (R69). -/
def State.skipIf (s : State) (taken : Bool) : State := if taken then s.advance 4 else s.advance 2

/-! ### The stack (R20, R21) -/

/-- `STACK[SP] <- a; SP <- SP + 1` with room on the stack (R68). -/
def State.push (s : State) (room : s.sp.val < 16) (a : Word) : State :=
  { s with stack := s.stack.set s.sp.val a, sp := ⟨s.sp.val + 1, by omega⟩ }

/-- The entry a pop reads, `STACK[SP - 1]`, with an entry on the stack (R65). -/
def State.top (s : State) (used : 0 < s.sp.val) : Word := s.stack[s.sp.val - 1]'(by omega)

/-- `SP <- SP - 1`; the entry read is not cleared (R21, R65). -/
def State.pop (s : State) (used : 0 < s.sp.val) : State :=
  { s with sp := ⟨s.sp.val - 1, by omega⟩ }

/-! ### The framebuffer (R24) and the redraw flag (R26) -/

/-- `FB[x][y]`. -/
def Framebuffer.pixel (fb : Framebuffer) (x : Column) (y : Row) : Bool := fb[y][x]

/-- `FB[x][y] <- b`. -/
def Framebuffer.setPixel (fb : Framebuffer) (x : Column) (y : Row) (b : Bool) : Framebuffer :=
  fb.set y (fb[y].set x b)

/-- The cell `FB[x][y]` of a state. -/
def State.pixel (s : State) (x : Column) (y : Row) : Bool := s.fb.pixel x y

/-- The framebuffer as a whole (R64, R89). -/
def State.setFb (s : State) (fb : Framebuffer) : State := { s with fb := fb }

/-- `REDRAW <- true`. -/
def State.requestRedraw (s : State) : State := { s with redraw := true }

/-! ### The timers (R22, R23, R116) -/

/-- `if t != 0: t <- t - 1` (R116): a timer at 0 stays at 0 (R114). -/
def countdown (t : Byte) : Byte := if t = 0 then 0 else t - 1

/-- `TimerUpdate()` (R116). -/
def State.timerUpdate (s : State) : State := { s with dt := countdown s.dt, st := countdown s.st }

/-- `DT <- b`. -/
def State.setDt (s : State) (b : Byte) : State := { s with dt := b }

/-- `ST <- b`. -/
def State.setSt (s : State) (b : Byte) : State := { s with st := b }

/-! ### The random source (R29, R87) -/

/-- The byte `RandomByte()` returns (R10, R87). -/
def State.randomByte (s : State) : Byte := (rngNext s.rng).1

/-- The random source advanced once (R29, R87). -/
def State.advanceRng (s : State) : State := { s with rng := (rngNext s.rng).2 }

/-! ### The status and the one fatal entry (R104, R107, R108) -/

/-- The status handed to the host. -/
def State.answer (s : State) (a : Status) : State := { s with status := a }

/-- `report UnknownOpcode(w)` (R107). -/
def State.reportUnknown (s : State) (w : Word) : State := s.answer (.unknownOpcode w)

/-- `raise Fatal(code)` (R104): RUN becomes HALTED and FAULT the code, and nothing else changes but the status handed out; no
vector, no saved register, no mode. It is applied to the state as it was before the instruction's first write (R105). There is
no return from it: only reset leaves HALTED (R106). -/
def State.raiseFatal (s : State) (code : FatalCode) : State :=
  { s with run := .halted, fault := code, status := .fatal code }

/-- An instruction with one fault condition, tested before its first write (R105): `done` when the test passes, else the fatal
entry from the state before the instruction. -/
def guarded (ok : Bool) (code : FatalCode) (s done : State) : Host.Outcome State Fault Refusal :=
  .next (if ok then done else s.raiseFatal code)

end Sys2Proof.Machine
end

