-- ==== Sys2Proof/Machine/Operands.lean ====
section
/-! DEFINITION. The operand forms (spec 30_encoding.md R53): immediates widened, the block of memory at I, the key a register
names, the sprite's start coordinates, and the values the special operands stand for. -/

namespace Sys2Proof.Machine

/-- `zext_16(NNN)` (R9, R53): no immediate is sign-extended, scaled or shifted. -/
def zext16 (nnn : Addr) : Word := nnn.setWidth 16

/-- Every address of the `n` bytes from `a` on is at most 0xFFF (R41, R105); no byte is in range anywhere. -/
def blockInRange (a n : Nat) : Bool := decide (n = 0) || decide (a + (n - 1) ≤ 0xFFF)

/-- The address of the memory operand of DXYN, FX33, FX55 and FX65: I (R45). -/
def State.blockBase (s : State) : Nat := s.index.toNat

/-- The `n` bytes at I are all in the address space (R105). -/
def State.blockOk (s : State) (n : Nat) : Bool := blockInRange s.blockBase n

/-- The key that VX names, when it is one of the sixteen (R90, R91). -/
def keyOf (b : Byte) : Option Key := if h : b.toNat < 16 then some ⟨b.toNat, h⟩ else none

/-- Whether a key is pressed (R25). -/
def State.pressed (s : State) (k : Key) : Bool := s.keys[k]

/-- The least pressed key (R93, D11). -/
def State.leastPressed (s : State) : Option Key := (List.finRange 16).find? fun k => s.pressed k

/-- The registers V0 to VX in order, which FX55 stores (R100). -/
def State.lowRegs (s : State) (x : Reg) : List Byte := s.v.toList.take (x.val + 1)

/-- V0 to VX loaded from the bytes at `a` on, the others as they are (R101). -/
def State.loadLowRegs (s : State) (x : Reg) (a : Nat) : State :=
  { s with v := Vector.ofFn fun k : Reg => if k ≤ x then s.readByte (a + k.val) else s.getV k }

/-- `if INDEX_ADVANCE: I <- trunc_16(I + X + 1)` (R100, R101). -/
def State.advanceIndex (s : State) (x : Reg) : State :=
  s.setIndex (if indexAdvance then BitVec.ofNat 16 (s.index.toNat + x.val + 1) else s.index)

/-- The three decimal digits of a byte, hundreds first (R99). -/
def bcdDigits (b : Byte) : List Byte :=
  [BitVec.ofNat 8 (b.toNat / 100), BitVec.ofNat 8 (b.toNat / 10 % 10), BitVec.ofNat 8 (b.toNat % 10)]

/-- The address of the glyph of a digit, `VX * 5`, not masked (R36, R98). -/
def glyphAddress (b : Byte) : Word := BitVec.ofNat 16 (b.toNat * Config.glyphBytes)

/-- The target of BNNN, `zext_16(NNN) + V0` in 16 bits (R86). -/
def indexedTarget (nnn : Addr) (b : Byte) : Word := zext16 nnn + b.setWidth 16

/-- The screen column of sprite column `c` drawn at `x0`, wrapped per pixel (R88). -/
def spriteColumn (x0 : Byte) (c : Nat) : Column := ⟨(x0.toNat + c) % 64, Nat.mod_lt _ (by decide)⟩

/-- The screen row of sprite row `r` drawn at `y0`, wrapped per pixel (R88). -/
def spriteRow (y0 : Byte) (r : Nat) : Row := ⟨(y0.toNat + r) % 32, Nat.mod_lt _ (by decide)⟩

/-- Bit `7 - c` of a sprite byte is its column `c`: the most significant bit is the leftmost pixel (R88). -/
def spriteBit (b : Byte) (c : Nat) : Bool := b.getLsbD (7 - c)

end Sys2Proof.Machine
end

