-- ==== Sys2Proof/Machine/Flags.lean ====
section
/-! DEFINITION. The results and the flags of the arithmetic instructions, computed exactly on unbounded numbers and narrowed at
the end (spec 42_alu.md R74, 46_timers_and_memory.md R97), and the order in which result and flag are written (R16). -/

namespace Sys2Proof.Machine

/-- `trunc_8(a + b)` (R79). -/
def addResult (a b : Byte) : Byte := BitVec.ofNat 8 (a.toNat + b.toNat)

/-- The carry: the unbounded sum exceeds 255 (R74, R79). -/
def addCarry (a b : Byte) : Bool := decide (a.toNat + b.toNat > 255)

/-- `trunc_8(a - b + 256)` (R80, R82). -/
def subResult (a b : Byte) : Byte := BitVec.ofNat 8 (a.toNat + 256 - b.toNat)

/-- No borrow: the minuend is at least the subtrahend, equal operands included (R74, R80, R82). -/
def subNoBorrow (a b : Byte) : Bool := decide (a.toNat ≥ b.toNat)

/-- `a >> 1` (R81). -/
def shiftRightResult (a : Byte) : Byte := a >>> 1

/-- The bit shifted out to the right, bit 0 (R81). -/
def shiftRightOut (a : Byte) : Bool := a.getLsbD 0

/-- `trunc_8(a << 1)` (R83). -/
def shiftLeftResult (a : Byte) : Byte := a <<< 1

/-- The bit shifted out to the left, bit 7 (R83). -/
def shiftLeftOut (a : Byte) : Bool := a.getLsbD 7

/-- `trunc_16(I + VX)` (R97, D25). -/
def indexSum (i : Word) (b : Byte) : Word := BitVec.ofNat 16 (i.toNat + b.toNat)

/-- The range flag of FX1E: the unbounded sum exceeds 0xFFF (R97). -/
def indexRange (i : Word) (b : Byte) : Bool := decide (i.toNat + b.toNat > 0xFFF)

/-- The result to VX and then the flag to VF, so that with X = 0xF the flag stays (R16, D8). -/
def State.setResultAndFlag (s : State) (x : Reg) (result : Byte) (flag : Bool) : State :=
  (s.setV x result).setFlag flag

end Sys2Proof.Machine
end

