-- ==== Sys2Proof/Machine/Alu.lean ====
section
/-! DEFINITION. Family 8, the register ALU operations (spec 42_alu.md R74–R83). All operands are read before any write, and the
flag is written last (R16). -/

namespace Sys2Proof.Machine

/-- `copy` (R75). -/
def execCopy (x y : Reg) (s : State) : Host.Outcome State Fault Refusal :=
  .next ((s.setV x (s.getV y)).advance 2)

/-- `or` (R76). -/
def execOrReg (x y : Reg) (s : State) : Host.Outcome State Fault Refusal :=
  .next ((s.setV x (s.getV x ||| s.getV y)).advance 2)

/-- `and` (R77). -/
def execAndReg (x y : Reg) (s : State) : Host.Outcome State Fault Refusal :=
  .next ((s.setV x (s.getV x &&& s.getV y)).advance 2)

/-- `xor` (R78). -/
def execXorReg (x y : Reg) (s : State) : Host.Outcome State Fault Refusal :=
  .next ((s.setV x (s.getV x ^^^ s.getV y)).advance 2)

/-- `add-reg` (R79). -/
def execAddReg (x y : Reg) (s : State) : Host.Outcome State Fault Refusal :=
  .next ((s.setResultAndFlag x (addResult (s.getV x) (s.getV y)) (addCarry (s.getV x) (s.getV y))).advance 2)

/-- `sub-reg` (R80): VX minus VY. -/
def execSubReg (x y : Reg) (s : State) : Host.Outcome State Fault Refusal :=
  .next ((s.setResultAndFlag x (subResult (s.getV x) (s.getV y)) (subNoBorrow (s.getV x) (s.getV y))).advance 2)

/-- `shift-right` (R81): VY is not read. -/
def execShiftRight (x _y : Reg) (s : State) : Host.Outcome State Fault Refusal :=
  .next ((s.setResultAndFlag x (shiftRightResult (s.getV x)) (shiftRightOut (s.getV x))).advance 2)

/-- `subn-reg` (R82): VY minus VX. -/
def execSubnReg (x y : Reg) (s : State) : Host.Outcome State Fault Refusal :=
  .next ((s.setResultAndFlag x (subResult (s.getV y) (s.getV x)) (subNoBorrow (s.getV y) (s.getV x))).advance 2)

/-- `shift-left` (R83): VY is not read. -/
def execShiftLeft (x _y : Reg) (s : State) : Host.Outcome State Fault Refusal :=
  .next ((s.setResultAndFlag x (shiftLeftResult (s.getV x)) (shiftLeftOut (s.getV x))).advance 2)

end Sys2Proof.Machine
end

