-- ==== Sys2Proof/Machine/Draw.lean ====
section
/-! DEFINITION. Family D and the framebuffer controller (spec 44_draw.md R88, R89), in the order of the rule's own loops. -/

namespace Sys2Proof.Machine

/-- What the loops of DXYN carry: the framebuffer and whether a cell has gone from 1 to 0 (R89's `hit`). -/
abbrev Canvas := Framebuffer × Bool

/-- One pixel of the sprite: a 0 bit leaves its cell; a 1 bit toggles it, and hits when the cell was set (R89). -/
def drawPixel (cv : Canvas) (x : Column) (y : Row) (bit : Bool) : Canvas :=
  if bit then (cv.1.setPixel x y (!cv.1.pixel x y), cv.2 || cv.1.pixel x y) else cv

/-- The eight pixels of the sprite byte `b` as row `r` of a sprite at `(x0, y0)` (R88, R89). -/
def drawRow (x0 y0 : Byte) (r : Nat) (b : Byte) (cv : Canvas) : Canvas :=
  (List.range 8).foldl (fun acc c => drawPixel acc (spriteColumn x0 c) (spriteRow y0 r) (spriteBit b c)) cv

/-- The `n` rows of the sprite in memory at `a` (R88, R89). -/
def drawRows (m : Memory) (a : Nat) (x0 y0 : Byte) (n : Nat) (cv : Canvas) : Canvas :=
  (List.range n).foldl (fun acc r => drawRow x0 y0 r (m.readByte (a + r)) acc) cv

/-- The canvas after drawing `n` rows at I to the coordinates in VX, VY, both read before VF is written (R89). -/
def State.drawn (s : State) (x y : Reg) (n : Nat) : Canvas :=
  drawRows s.mem s.blockBase (s.getV x) (s.getV y) n (s.fb, false)

/-- `draw-sprite` (R89): VF is written and REDRAW set on every execution, N = 0 included. -/
def execDrawSprite (x y : Reg) (n : Fin 16) (s : State) : Host.Outcome State Fault Refusal :=
  guarded (s.blockOk n.val) .addressOutOfRange s
    ((((s.setFb (s.drawn x y n.val).1).setFlag (s.drawn x y n.val).2).requestRedraw).advance 2)

end Sys2Proof.Machine
end

