-- ==== Sys2Proof/WellFormed.lean ====
section
/-! DEFINITION. Which terms of `Instr` are instructions of the table. Every field has exactly its encoding's range by its
type; the one check left is that `sys` is not one of the two exact words of family 0 (spec 30_encoding.md R56). -/

namespace Sys2Proof

/-- 0x00E0 and 0x00EE decode to `clear` and `return`, so they are no words of `sys` (R56, R66). -/
def sysFieldOk (nnn : Addr) : Bool := nnn != 0x0E0 && nnn != 0x0EE

/-- The instruction stands for a word of its row. -/
def Instr.wellFormed : Instr → Bool
  | .clear => true
  | .ret => true
  | .sys nnn => sysFieldOk nnn
  | .jump _ => true
  | .call _ => true
  | .skipEqImm _ _ => true
  | .skipNeqImm _ _ => true
  | .skipEqReg _ _ => true
  | .loadImm _ _ => true
  | .addImm _ _ => true
  | .copy _ _ => true
  | .orReg _ _ => true
  | .andReg _ _ => true
  | .xorReg _ _ => true
  | .addReg _ _ => true
  | .subReg _ _ => true
  | .shiftRight _ _ => true
  | .subnReg _ _ => true
  | .shiftLeft _ _ => true
  | .skipNeqReg _ _ => true
  | .setIndex _ => true
  | .jumpIndexed _ => true
  | .random _ _ => true
  | .drawSprite _ _ _ => true
  | .skipIfPressed _ => true
  | .skipIfNotPressed _ => true
  | .getDelay _ => true
  | .waitKey _ => true
  | .setDelay _ => true
  | .setSound _ => true
  | .addIndex _ => true
  | .fontIndex _ => true
  | .storeBcd _ => true
  | .storeRegs _ => true
  | .loadRegs _ => true

end Sys2Proof
end

