-- ==== Sys2Proof/Decode.lean ====
section
/-! DEFINITION. Decoding (spec 30_encoding.md R51–R59), total on any word and any bytes and rejecting by name; the opcode
table as data; and after it the encoder, written from the same table. -/

namespace Sys2Proof

/-- Why bytes are no instruction: the five UNKNOWN patterns of R59, by name, or fewer than the two bytes of a word (R51). -/
inductive Rejection where
  /-- 5XYN with N ≠ 0 (R59) -/
  | unknown5XYN
  /-- 8XYN with N one of 8 to D, F (R59) -/
  | unknown8XYN
  /-- 9XYN with N ≠ 0 (R59) -/
  | unknown9XYN
  /-- EXSS with SS neither 9E nor A1 (R59) -/
  | unknownEXSS
  /-- FXSS with SS none of the nine of R57 (R59) -/
  | unknownFXSS
  /-- fewer than two bytes (R51); a fetch never gives this -/
  | truncated
  deriving DecidableEq, Repr

/-- What a decoder answers: an instruction of the table, or a rejection by name. -/
inductive Decoded where
  | instr (i : Instr)
  | rejected (r : Rejection)
  deriving DecidableEq, Repr

/-- The family nibble `w[15:12]` (R9, R52). -/
def family (w : Word) : BitVec 4 := w.extractLsb' 12 4

/-- `X = w[11:8]` (R11). -/
def fieldX (w : Word) : Reg := (w.extractLsb' 8 4).toFin

/-- `Y = w[7:4]` (R11). -/
def fieldY (w : Word) : Reg := (w.extractLsb' 4 4).toFin

/-- `N = w[3:0]` (R11). -/
def fieldN (w : Word) : Fin 16 := (w.extractLsb' 0 4).toFin

/-- `NN = w[7:0]` (R11). -/
def fieldNN (w : Word) : Byte := w.extractLsb' 0 8

/-- `NNN = w[11:0]` (R11). -/
def fieldNNN (w : Word) : Addr := w.extractLsb' 0 12

/-- Family 0: the two exact words, and `sys` for every other (R56 steps 1 and 2). -/
def decodeFamily0 (w : Word) : Decoded :=
  if w = 0x00E0 then .instr .clear
  else if w = 0x00EE then .instr .ret
  else .instr (.sys (fieldNNN w))

/-- Family 5: only the low nibble 0 is an instruction (R57, R59). -/
def decodeFamily5 (w : Word) : Decoded :=
  if fieldN w = 0 then .instr (.skipEqReg (fieldX w) (fieldY w)) else .rejected .unknown5XYN

/-- Family 8: the low nibble selects the operation (R57, R59). -/
def decodeFamily8 (w : Word) : Decoded :=
  match (fieldN w).val with
  | 0x0 => .instr (.copy (fieldX w) (fieldY w))
  | 0x1 => .instr (.orReg (fieldX w) (fieldY w))
  | 0x2 => .instr (.andReg (fieldX w) (fieldY w))
  | 0x3 => .instr (.xorReg (fieldX w) (fieldY w))
  | 0x4 => .instr (.addReg (fieldX w) (fieldY w))
  | 0x5 => .instr (.subReg (fieldX w) (fieldY w))
  | 0x6 => .instr (.shiftRight (fieldX w) (fieldY w))
  | 0x7 => .instr (.subnReg (fieldX w) (fieldY w))
  | 0xE => .instr (.shiftLeft (fieldX w) (fieldY w))
  | _ => .rejected .unknown8XYN

/-- Family 9: only the low nibble 0 is an instruction (R57, R59). -/
def decodeFamily9 (w : Word) : Decoded :=
  if fieldN w = 0 then .instr (.skipNeqReg (fieldX w) (fieldY w)) else .rejected .unknown9XYN

/-- Family E: the low byte selects the operation (R57, R59). -/
def decodeFamilyE (w : Word) : Decoded :=
  match (fieldNN w).toNat with
  | 0x9E => .instr (.skipIfPressed (fieldX w))
  | 0xA1 => .instr (.skipIfNotPressed (fieldX w))
  | _ => .rejected .unknownEXSS

/-- Family F: the low byte selects the operation (R57, R59). -/
def decodeFamilyF (w : Word) : Decoded :=
  match (fieldNN w).toNat with
  | 0x07 => .instr (.getDelay (fieldX w))
  | 0x0A => .instr (.waitKey (fieldX w))
  | 0x15 => .instr (.setDelay (fieldX w))
  | 0x18 => .instr (.setSound (fieldX w))
  | 0x1E => .instr (.addIndex (fieldX w))
  | 0x29 => .instr (.fontIndex (fieldX w))
  | 0x33 => .instr (.storeBcd (fieldX w))
  | 0x55 => .instr (.storeRegs (fieldX w))
  | 0x65 => .instr (.loadRegs (fieldX w))
  | _ => .rejected .unknownFXSS

/-- `Decode(w)` (R56, R57): total on 16-bit words. A family nibble has 16 values, so the last arm is family F. -/
def decodeWord (w : Word) : Decoded :=
  match (family w).toNat with
  | 0x0 => decodeFamily0 w
  | 0x1 => .instr (.jump (fieldNNN w))
  | 0x2 => .instr (.call (fieldNNN w))
  | 0x3 => .instr (.skipEqImm (fieldX w) (fieldNN w))
  | 0x4 => .instr (.skipNeqImm (fieldX w) (fieldNN w))
  | 0x5 => decodeFamily5 w
  | 0x6 => .instr (.loadImm (fieldX w) (fieldNN w))
  | 0x7 => .instr (.addImm (fieldX w) (fieldNN w))
  | 0x8 => decodeFamily8 w
  | 0x9 => decodeFamily9 w
  | 0xA => .instr (.setIndex (fieldNNN w))
  | 0xB => .instr (.jumpIndexed (fieldNNN w))
  | 0xC => .instr (.random (fieldX w) (fieldNN w))
  | 0xD => .instr (.drawSprite (fieldX w) (fieldY w) (fieldN w))
  | 0xE => decodeFamilyE w
  | _ => decodeFamilyF w

/-- The word of two consecutive bytes: the byte at the lower address is the high byte (R43, R51). -/
def wordOfBytes (high low : Byte) : Word := high ++ low

/-- The byte of a word that stands at the lower address (R43). -/
def highByte (w : Word) : Byte := w.extractLsb' 8 8

/-- The byte of a word that stands at the higher address (R43). -/
def lowByte (w : Word) : Byte := w.extractLsb' 0 8

/-- A decoder always consumes 2 bytes (R51); with fewer there is no instruction. -/
def decodeBytes : List Byte → Decoded
  | high :: low :: _ => decodeWord (wordOfBytes high low)
  | _ => .rejected .truncated

/-- The bytes of a word as the memory holds them, lower address first (R43). -/
def bytesOfWord (w : Word) : List Byte := [highByte w, lowByte w]

/-- The word whose bits are `w` below `nbits` and 0 above, as the opcode table numbers them. -/
def tableWord (nbits w : Nat) : Word := BitVec.ofNat 16 (w % 2 ^ nbits)

/-- The instruction the decoder reads from a word numbered as spec/opcode_table.json numbers it. -/
def decodeTableWord (nbits w : Nat) : Option Instr :=
  match decodeBytes (bytesOfWord (tableWord nbits w)) with
  | .instr i => some i
  | .rejected _ => none

/-! ### The opcode table as data -/

/-- The formats of R52. -/
inductive Format where
  | fixed
  | nnn
  | xnn
  | xys
  | xyn
  | xss
  deriving DecidableEq, Repr

/-- One row of spec/opcode_table.json: a word `w` matches it when `w &&& mask = pattern` (R56). -/
structure TableRow where
  mnemonic : String
  format : Format
  pattern : Word
  mask : Word
  deriving DecidableEq, Repr

/-- The row of spec/opcode_table.json that a constructor stands for. -/
def rowOf : Instr → TableRow
  | .clear => ⟨"clear", .fixed, 0x00E0, 0xFFFF⟩
  | .ret => ⟨"return", .fixed, 0x00EE, 0xFFFF⟩
  | .sys _ => ⟨"sys", .nnn, 0x0000, 0xF000⟩
  | .jump _ => ⟨"jump", .nnn, 0x1000, 0xF000⟩
  | .call _ => ⟨"call", .nnn, 0x2000, 0xF000⟩
  | .skipEqImm _ _ => ⟨"skip-eq-imm", .xnn, 0x3000, 0xF000⟩
  | .skipNeqImm _ _ => ⟨"skip-neq-imm", .xnn, 0x4000, 0xF000⟩
  | .skipEqReg _ _ => ⟨"skip-eq-reg", .xys, 0x5000, 0xF00F⟩
  | .loadImm _ _ => ⟨"load-imm", .xnn, 0x6000, 0xF000⟩
  | .addImm _ _ => ⟨"add-imm", .xnn, 0x7000, 0xF000⟩
  | .copy _ _ => ⟨"copy", .xys, 0x8000, 0xF00F⟩
  | .orReg _ _ => ⟨"or", .xys, 0x8001, 0xF00F⟩
  | .andReg _ _ => ⟨"and", .xys, 0x8002, 0xF00F⟩
  | .xorReg _ _ => ⟨"xor", .xys, 0x8003, 0xF00F⟩
  | .addReg _ _ => ⟨"add-reg", .xys, 0x8004, 0xF00F⟩
  | .subReg _ _ => ⟨"sub-reg", .xys, 0x8005, 0xF00F⟩
  | .shiftRight _ _ => ⟨"shift-right", .xys, 0x8006, 0xF00F⟩
  | .subnReg _ _ => ⟨"subn-reg", .xys, 0x8007, 0xF00F⟩
  | .shiftLeft _ _ => ⟨"shift-left", .xys, 0x800E, 0xF00F⟩
  | .skipNeqReg _ _ => ⟨"skip-neq-reg", .xys, 0x9000, 0xF00F⟩
  | .setIndex _ => ⟨"set-index", .nnn, 0xA000, 0xF000⟩
  | .jumpIndexed _ => ⟨"jump-indexed", .nnn, 0xB000, 0xF000⟩
  | .random _ _ => ⟨"random", .xnn, 0xC000, 0xF000⟩
  | .drawSprite _ _ _ => ⟨"draw-sprite", .xyn, 0xD000, 0xF000⟩
  | .skipIfPressed _ => ⟨"skip-if-pressed", .xss, 0xE09E, 0xF0FF⟩
  | .skipIfNotPressed _ => ⟨"skip-if-not-pressed", .xss, 0xE0A1, 0xF0FF⟩
  | .getDelay _ => ⟨"get-delay", .xss, 0xF007, 0xF0FF⟩
  | .waitKey _ => ⟨"wait-key", .xss, 0xF00A, 0xF0FF⟩
  | .setDelay _ => ⟨"set-delay", .xss, 0xF015, 0xF0FF⟩
  | .setSound _ => ⟨"set-sound", .xss, 0xF018, 0xF0FF⟩
  | .addIndex _ => ⟨"add-index", .xss, 0xF01E, 0xF0FF⟩
  | .fontIndex _ => ⟨"font-index", .xss, 0xF029, 0xF0FF⟩
  | .storeBcd _ => ⟨"store-bcd", .xss, 0xF033, 0xF0FF⟩
  | .storeRegs _ => ⟨"store-regs", .xss, 0xF055, 0xF0FF⟩
  | .loadRegs _ => ⟨"load-regs", .xss, 0xF065, 0xF0FF⟩

/-- The rows of families 1 to F, in the table's order: the rows of R56 step 3. -/
def matchedRows : List TableRow :=
  [rowOf (.jump 0), rowOf (.call 0), rowOf (.skipEqImm 0 0), rowOf (.skipNeqImm 0 0), rowOf (.skipEqReg 0 0)] ++
  [rowOf (.loadImm 0 0), rowOf (.addImm 0 0), rowOf (.copy 0 0), rowOf (.orReg 0 0), rowOf (.andReg 0 0)] ++
  [rowOf (.xorReg 0 0), rowOf (.addReg 0 0), rowOf (.subReg 0 0), rowOf (.shiftRight 0 0), rowOf (.subnReg 0 0)] ++
  [rowOf (.shiftLeft 0 0), rowOf (.skipNeqReg 0 0), rowOf (.setIndex 0), rowOf (.jumpIndexed 0)] ++
  [rowOf (.random 0 0), rowOf (.drawSprite 0 0 0), rowOf (.skipIfPressed 0), rowOf (.skipIfNotPressed 0)] ++
  [rowOf (.getDelay 0), rowOf (.waitKey 0), rowOf (.setDelay 0), rowOf (.setSound 0), rowOf (.addIndex 0)] ++
  [rowOf (.fontIndex 0), rowOf (.storeBcd 0), rowOf (.storeRegs 0), rowOf (.loadRegs 0)]

/-- All 35 rows of spec/opcode_table.json. -/
def opcodeTable : List TableRow := [rowOf .clear, rowOf .ret, rowOf (.sys 0)] ++ matchedRows

/-- A word matches a row (R56 step 3). -/
def TableRow.fits (r : TableRow) (w : Word) : Bool := w &&& r.mask == r.pattern

/-! ### The encoder (R52, R62) -/

/-- A 4-bit field as bits. -/
def nibble (d : Fin 16) : BitVec 4 := BitVec.ofFin (w := 4) d

/-- Format NNN (R52). -/
def encodeNNN (f : BitVec 4) (nnn : Addr) : Word := f ++ nnn

/-- Format XNN, and XSS with SS fixed (R52). -/
def encodeXNN (f : BitVec 4) (x : Reg) (nn : Byte) : Word := f ++ nibble x ++ nn

/-- Format XYN, and XYS with S fixed (R52). -/
def encodeXYN (f : BitVec 4) (x y : Reg) (n : Fin 16) : Word := f ++ nibble x ++ nibble y ++ nibble n

/-- The word of an instruction: every operand in the field its format names (R52, R62). -/
def encode : Instr → Word
  | .clear => 0x00E0
  | .ret => 0x00EE
  | .sys nnn => encodeNNN 0x0 nnn
  | .jump nnn => encodeNNN 0x1 nnn
  | .call nnn => encodeNNN 0x2 nnn
  | .skipEqImm x nn => encodeXNN 0x3 x nn
  | .skipNeqImm x nn => encodeXNN 0x4 x nn
  | .skipEqReg x y => encodeXYN 0x5 x y 0x0
  | .loadImm x nn => encodeXNN 0x6 x nn
  | .addImm x nn => encodeXNN 0x7 x nn
  | .copy x y => encodeXYN 0x8 x y 0x0
  | .orReg x y => encodeXYN 0x8 x y 0x1
  | .andReg x y => encodeXYN 0x8 x y 0x2
  | .xorReg x y => encodeXYN 0x8 x y 0x3
  | .addReg x y => encodeXYN 0x8 x y 0x4
  | .subReg x y => encodeXYN 0x8 x y 0x5
  | .shiftRight x y => encodeXYN 0x8 x y 0x6
  | .subnReg x y => encodeXYN 0x8 x y 0x7
  | .shiftLeft x y => encodeXYN 0x8 x y 0xE
  | .skipNeqReg x y => encodeXYN 0x9 x y 0x0
  | .setIndex nnn => encodeNNN 0xA nnn
  | .jumpIndexed nnn => encodeNNN 0xB nnn
  | .random x nn => encodeXNN 0xC x nn
  | .drawSprite x y n => encodeXYN 0xD x y n
  | .skipIfPressed x => encodeXNN 0xE x 0x9E
  | .skipIfNotPressed x => encodeXNN 0xE x 0xA1
  | .getDelay x => encodeXNN 0xF x 0x07
  | .waitKey x => encodeXNN 0xF x 0x0A
  | .setDelay x => encodeXNN 0xF x 0x15
  | .setSound x => encodeXNN 0xF x 0x18
  | .addIndex x => encodeXNN 0xF x 0x1E
  | .fontIndex x => encodeXNN 0xF x 0x29
  | .storeBcd x => encodeXNN 0xF x 0x33
  | .storeRegs x => encodeXNN 0xF x 0x55
  | .loadRegs x => encodeXNN 0xF x 0x65

/-- One line of a program in the assembly language of R62: an instruction, `.byte b, …` or `.word h, …`. -/
inductive AsmItem where
  | instr (i : Instr)
  | bytes (bs : List Byte)
  | words (ws : List Word)
  deriving DecidableEq, Repr

/-- The bytes one line places (R62): words big-endian (R43). -/
def AsmItem.image : AsmItem → List Byte
  | .instr i => bytesOfWord (encode i)
  | .bytes bs => bs
  | .words ws => ws.flatMap bytesOfWord

/-- The ROM bytes of a program (R39, R62). -/
def assemble (p : List AsmItem) : List Byte := p.flatMap AsmItem.image

end Sys2Proof
end

