-- ==== Sys2Proof/Machine/FamilyZero.lean ====
section
/-! DEFINITION. Family 0 (spec 40_family0.md R64–R66) and the UNKNOWN words (30_encoding.md R60). -/

namespace Sys2Proof.Machine

/-- The effect of a word that is no instruction of the source's table: report it and pass over it (R60). -/
def State.passOver (s : State) (w : Word) : State := (s.reportUnknown w).advance 2

/-- An UNKNOWN word (R60). -/
def execUnknown (w : Word) (s : State) : Host.Outcome State Fault Refusal := .next (s.passOver w)

/-- `clear` (R64). -/
def execClear (s : State) : Host.Outcome State Fault Refusal :=
  .next ((s.setFb blankFb).requestRedraw.advance 2)

/-- `return` (R65): the popped address is the call's own, and 2 is added to it (D7). -/
def execRet (s : State) : Host.Outcome State Fault Refusal :=
  if used : 0 < s.sp.val then .next ((s.pop used).setPc (s.top used + 2))
  else .next (s.raiseFatal .stackUnderflow)

/-- `sys` (R66): identical to an UNKNOWN word; the report carries the whole word. -/
def execSys (nnn : Addr) (s : State) : Host.Outcome State Fault Refusal := .next (s.passOver (encode (.sys nnn)))

end Sys2Proof.Machine
end

