-- ==== Sys2Proof/Machine/FlowImmediate.lean ====
section
/-! DEFINITION. Families 1 to 7 (spec 41_flow_and_immediate.md R67–R73): jump, call, skips, immediates. -/

namespace Sys2Proof.Machine

/-- `jump` (R67). -/
def execJump (nnn : Addr) (s : State) : Host.Outcome State Fault Refusal := .next (s.setPc (zext16 nnn))

/-- `call` (R68): it pushes its own address (D7). -/
def execCall (nnn : Addr) (s : State) : Host.Outcome State Fault Refusal :=
  if room : s.sp.val < 16 then .next ((s.push room s.pc).setPc (zext16 nnn))
  else .next (s.raiseFatal .stackOverflow)

/-- `skip-eq-imm` (R69). -/
def execSkipEqImm (x : Reg) (nn : Byte) (s : State) : Host.Outcome State Fault Refusal :=
  .next (s.skipIf (s.getV x == nn))

/-- `skip-neq-imm` (R70). -/
def execSkipNeqImm (x : Reg) (nn : Byte) (s : State) : Host.Outcome State Fault Refusal :=
  .next (s.skipIf (s.getV x != nn))

/-- `skip-eq-reg` (R71). -/
def execSkipEqReg (x y : Reg) (s : State) : Host.Outcome State Fault Refusal :=
  .next (s.skipIf (s.getV x == s.getV y))

/-- `load-imm` (R72). -/
def execLoadImm (x : Reg) (nn : Byte) (s : State) : Host.Outcome State Fault Refusal :=
  .next ((s.setV x nn).advance 2)

/-- `add-imm` (R73): no carry flag. -/
def execAddImm (x : Reg) (nn : Byte) (s : State) : Host.Outcome State Fault Refusal :=
  .next ((s.setV x (addResult (s.getV x) nn)).advance 2)

end Sys2Proof.Machine
end

