-- ==== Sys2Proof/Machine/Keyboard.lean ====
section
/-! DEFINITION. Family E, the key-state skips (spec 45_keyboard_skip.md R90, R91). -/

namespace Sys2Proof.Machine

/-- A skip on the state of the key that VX names; a key index above 0xF is fatal (R90, R91, D12). -/
def skipOnKey (x : Reg) (wanted : Bool) (s : State) : Host.Outcome State Fault Refusal :=
  match keyOf (s.getV x) with
  | some k => .next (s.skipIf (s.pressed k == wanted))
  | none => .next (s.raiseFatal .keyIndexOutOfRange)

/-- `skip-if-pressed` (R90). -/
def execSkipIfPressed (x : Reg) (s : State) : Host.Outcome State Fault Refusal := skipOnKey x true s

/-- `skip-if-not-pressed` (R91). -/
def execSkipIfNotPressed (x : Reg) (s : State) : Host.Outcome State Fault Refusal := skipOnKey x false s

end Sys2Proof.Machine
end

