-- ==== Sys2Proof/Machine/SkipIndexRandom.lean ====
section
/-! DEFINITION. Families 9 to C (spec 43_skip_index_random.md R84–R87). -/

namespace Sys2Proof.Machine

/-- `skip-neq-reg` (R84). -/
def execSkipNeqReg (x y : Reg) (s : State) : Host.Outcome State Fault Refusal :=
  .next (s.skipIf (s.getV x != s.getV y))

/-- `set-index` (R85). -/
def execSetIndex (nnn : Addr) (s : State) : Host.Outcome State Fault Refusal :=
  .next ((s.setIndex (zext16 nnn)).advance 2)

/-- `jump-indexed` (R86): the register is always V0; a target above 0xFFE faults at the next fetch, not here. -/
def execJumpIndexed (nnn : Addr) (s : State) : Host.Outcome State Fault Refusal :=
  .next (s.setPc (indexedTarget nnn (s.getV 0)))

/-- `random` (R87): the byte of RNG_NEXT, masked; the random source advances once. -/
def execRandom (x : Reg) (nn : Byte) (s : State) : Host.Outcome State Fault Refusal :=
  .next ((s.advanceRng.setV x (s.randomByte &&& nn)).advance 2)

end Sys2Proof.Machine
end

