-- ==== Sys2Proof/Machine/TimersMemory.lean ====
section
/-! DEFINITION. Family F (spec 46_timers_and_memory.md R92–R101): timers, key wait, index and memory transfers. The step's timer
update comes after each of these (R116). -/

namespace Sys2Proof.Machine

/-- `get-delay` (R92): DT before this step's decrement. -/
def execGetDelay (x : Reg) (s : State) : Host.Outcome State Fault Refusal :=
  .next ((s.setV x s.dt).advance 2)

/-- `wait-key` (R93, R94): the least pressed key completes it; with none, the status says so and nothing else changes. -/
def execWaitKey (x : Reg) (s : State) : Host.Outcome State Fault Refusal :=
  match s.leastPressed with
  | some k => .next ((s.setV x (BitVec.ofNat 8 k.val)).advance 2)
  | none => .next (s.answer .waitKey)

/-- `set-delay` (R95). -/
def execSetDelay (x : Reg) (s : State) : Host.Outcome State Fault Refusal :=
  .next ((s.setDt (s.getV x)).advance 2)

/-- `set-sound` (R96). -/
def execSetSound (x : Reg) (s : State) : Host.Outcome State Fault Refusal :=
  .next ((s.setSt (s.getV x)).advance 2)

/-- `add-index` (R97): with X = 0xF the old VF is added, and VF then receives the flag (R16). -/
def execAddIndex (x : Reg) (s : State) : Host.Outcome State Fault Refusal :=
  .next (((s.setIndex (indexSum s.index (s.getV x))).setFlag (indexRange s.index (s.getV x))).advance 2)

/-- `font-index` (R98). -/
def execFontIndex (x : Reg) (s : State) : Host.Outcome State Fault Refusal :=
  .next ((s.setIndex (glyphAddress (s.getV x))).advance 2)

/-- `store-bcd` (R99). -/
def execStoreBcd (x : Reg) (s : State) : Host.Outcome State Fault Refusal :=
  guarded (s.blockOk 3) .addressOutOfRange s ((s.storeBytes s.blockBase (bcdDigits (s.getV x))).advance 2)

/-- `store-regs` (R100). -/
def execStoreRegs (x : Reg) (s : State) : Host.Outcome State Fault Refusal :=
  guarded (s.blockOk (x.val + 1)) .addressOutOfRange s
    (((s.storeBytes s.blockBase (s.lowRegs x)).advanceIndex x).advance 2)

/-- `load-regs` (R101). -/
def execLoadRegs (x : Reg) (s : State) : Host.Outcome State Fault Refusal :=
  guarded (s.blockOk (x.val + 1)) .addressOutOfRange s
    (((s.loadLowRegs x s.blockBase).advanceIndex x).advance 2)

end Sys2Proof.Machine
end

