-- ==== Sys2Proof/Machine/Cycle.lean ====
section
/-! DEFINITION. The phases of the step cycle (spec 30_encoding.md R54, R55; 60_exceptions.md R104, R109, R116). -/

namespace Sys2Proof.Machine

/-- `Fetch(pc)` (R55): both byte addresses must be at most 0xFFF; nothing changes. `none` is the fatal case. -/
def State.fetch (s : State) : Option Word :=
  if s.pc.toNat + 1 ≤ 0xFFF then some (wordOfBytes (s.readByte s.pc.toNat) (s.readByte (s.pc.toNat + 1))) else none

/-- `Execute(Decode(w), w)` (R54 steps 2 and 3); an UNKNOWN word is executed per R60. -/
def executeWord (w : Word) (s : State) : Host.Outcome State Fault Refusal :=
  match decodeWord w with
  | .instr i => exec i s
  | .rejected _ => execUnknown w s

/-- Step 4 (R54, R116): the timer update, which a step that raised a fatal condition does not reach (R104). -/
def State.endOfStep (s : State) : State :=
  match s.run with
  | .halted => s
  | .running => s.timerUpdate
  | .unloaded => s.timerUpdate

/-- Step 4 after step 3. -/
def endStep : Host.Outcome State Fault Refusal → Host.Outcome State Fault Refusal
  | .next t => .next t.endOfStep
  | .fault r => .fault r
  | .refused r => .refused r

/-- The whole cycle with RUN = RUNNING: the status starts as OK; an out-of-range fetch is fatal before decode (R54, R109). -/
def runCycle (s : State) : Host.Outcome State Fault Refusal :=
  match s.fetch with
  | none => .next (s.raiseFatal .addressOutOfRange)
  | some w => endStep (executeWord w (s.answer .ok))

/-- `step` with RUN = UNLOADED: NOT_RUNNING and nothing changes (R113). -/
def stepUnloaded (s : State) : Host.Outcome State Fault Refusal := .next (s.answer .notRunning)

/-- `step` with RUN = HALTED: FATAL(FAULT) and nothing changes (R106). -/
def stepHalted (s : State) : Host.Outcome State Fault Refusal := .next (s.answer (.fatal s.fault))

/-- The address of the next fetch, or 0x200 where the program counter is out of range; see `State.placeWord`. -/
def State.placePc (s : State) : Word := if s.pc.toNat + 1 ≤ 0xFFF then s.pc else Config.pcReset

/-- The state that fetches `w` next: the word stored at pc and RUN = RUNNING, as after a load (log entry 6). A pc from which
nothing can be fetched is set to 0x200. -/
def State.placeWord (s : State) (w : Word) : State :=
  { s with
    pc := s.placePc
    run := .running
    mem := s.mem.writeBytes s.placePc.toNat (bytesOfWord w) }

end Sys2Proof.Machine
end

