-- ==== Sys2Proof/Machine/Step.lean ====
section
/-! DEFINITION. The core's single operation `step` (spec 30_encoding.md R54, 60_exceptions.md R109), and the host's way to have
the very next step run a given word. -/

namespace Sys2Proof.Machine

/-- `step()` (R54, R109): one instruction when RUN = RUNNING; otherwise only the status answers. -/
def step (s : State) : Host.Outcome State Fault Refusal :=
  match s.run with
  | .unloaded => stepUnloaded s
  | .halted => stepHalted s
  | .running => runCycle s

/-- `s` with an instruction word stored where `step` fetches its next instruction, and RUN = RUNNING, so that `step` of it
fetches and runs exactly that word. It stands for the load of a program from outside (R39; log entry 6). -/
def State.withFetchWord (s : State) (nbits w : Nat) : State := s.placeWord (tableWord nbits w)

end Sys2Proof.Machine
end

