-- ==== Sys2Proof/Machine/HostInterface.lean ====
section
/-! DEFINITION. What the host does to the core between steps, and what it reads (spec 60_exceptions.md R118–R121,
20_memory.md R39, 70_reset_and_hazards.md R126). -/

namespace Sys2Proof.Machine

/-- The copy of an accepted ROM (R39): the bytes from 0x200 on, and RUN becomes RUNNING. -/
def State.loaded (s : State) (rom : List Byte) : State :=
  (({ s with run := .running } : State).storeBytes Config.progBase rom).answer .ok

/-- `load_program(bytes)` (R39): accepted only with RUN = UNLOADED; the length is checked before any byte is written. -/
def loadProgram (rom : List Byte) (s : State) : State :=
  match s.run with
  | .running => s.answer .notAccepted
  | .halted => s.answer .notAccepted
  | .unloaded => if rom.length > Config.maxRom then s.raiseFatal .capacityExceeded else s.loaded rom

/-- `KEY[k] <- (value ≠ 0)` (R25, R120). -/
def writeKey (k : Key) (value : Nat) (s : State) : State := { s with keys := s.keys.set k (decide (value ≠ 0)) }

/-- The host clears REDRAW after it consumed a frame (R26, R120). -/
def clearRedraw (s : State) : State := { s with redraw := false }

/-- The actions by which the host changes the core between steps (R120); `step` is the other one. -/
inductive HostAction where
  /-- reset, the construction of the core anew (R126) -/
  | reset
  | loadProgram (rom : List Byte)
  | clearRedraw
  | writeKey (k : Key) (value : Nat)
  deriving DecidableEq, Repr

/-- The effect of a host action (R120). -/
def hostAct : HostAction → State → State
  | .reset, _ => State.reset
  | .loadProgram rom, s => loadProgram rom s
  | .clearRedraw, s => clearRedraw s
  | .writeKey k value, s => writeKey k value s

/-- The tone output, `ST ≠ 0`, on the state between steps (R118). -/
def State.tone (s : State) : Bool := decide (s.st ≠ 0)

/-- The cell at element `n` of the host's linear view of the framebuffer: cell (x, y) is element `y*64 + x` (R24). -/
def State.linearCell (s : State) (n : Fin 2048) : Bool :=
  s.pixel ⟨n.val % 64, by omega⟩ ⟨n.val / 64, by omega⟩

/-- Everything the host can read between steps (R120): FB in its linear view, REDRAW, DT, ST, TONE; and RUN and FAULT
through the status (R30). -/
structure HostView where
  fb : Vector Bool 2048
  redraw : Bool
  dt : Byte
  st : Byte
  tone : Bool
  status : Status
  deriving DecidableEq, Repr

/-- What the host sees of a state (R120). -/
def State.hostView (s : State) : HostView where
  fb := Vector.ofFn s.linearCell
  redraw := s.redraw
  dt := s.dt
  st := s.st
  tone := s.tone
  status := s.status

end Sys2Proof.Machine
end

