-- ==== Sys2Proof/Safety.lean ====
section
/-! DEFINITION. What claims about runs are stated in: the invariant of the machine, the reachable states, the fault condition of
each instruction as one table (spec 60_exceptions.md R105), the registers each instruction reads and writes (10_state.md R15),
and the end of a run (R125). -/

namespace Sys2Proof.Machine

/-- A safe state: the core is not HALTED (R27). -/
def State.Safe (s : State) : Prop := s.run ≠ .halted

/-- What every step and every host action keeps. -/
structure State.Inv (s : State) : Prop where
  /-- the memory's canonical form (R34) -/
  memory : s.mem.wf = true
  /-- FAULT is written only when RUN becomes HALTED (R28) -/
  faultIffHalted : s.fault ≠ .none ↔ s.run = .halted
  /-- a FATAL status names the code in FAULT (R104, R106) -/
  statusIsFault : ∀ c, s.status = .fatal c → s.run = .halted ∧ s.fault = c
  /-- pc never exceeds 0x10FE (R19) -/
  pcBound : s.pc.toNat ≤ 0x10FE
  /-- a pushed address is at most 0xFFE (R65) -/
  stackBound : ∀ k : Fin 16, s.stack[k].toNat ≤ 0xFFE

/-- The states the core can come to from reset, by steps and host actions in any order (R6, R120). -/
inductive State.Reachable : State → Prop where
  | reset : State.Reachable State.reset
  | step {s t : State} (before : State.Reachable s) (h : Machine.step s = .next t) : State.Reachable t
  | host {s : State} (before : State.Reachable s) (a : HostAction) : State.Reachable (hostAct a s)

/-- The fault condition each instruction tests first, as the table of R105 gives it, and its code (R103). -/
def fatalCondition (s : State) : Instr → Option FatalCode
  | .ret => if s.sp.val = 0 then some .stackUnderflow else none
  | .call _ => if s.sp.val = 16 then some .stackOverflow else none
  | .drawSprite _ _ n =>
    if n.val > 0 ∧ s.index.toNat + n.val - 1 > 0xFFF then some .addressOutOfRange else none
  | .skipIfPressed x => if (s.getV x).toNat > 0xF then some .keyIndexOutOfRange else none
  | .skipIfNotPressed x => if (s.getV x).toNat > 0xF then some .keyIndexOutOfRange else none
  | .storeBcd _ => if s.index.toNat + 2 > 0xFFF then some .addressOutOfRange else none
  | .storeRegs x => if s.index.toNat + x.val > 0xFFF then some .addressOutOfRange else none
  | .loadRegs x => if s.index.toNat + x.val > 0xFFF then some .addressOutOfRange else none
  | .clear => none
  | .sys _ => none
  | .jump _ => none
  | .skipEqImm _ _ => none
  | .skipNeqImm _ _ => none
  | .skipEqReg _ _ => none
  | .loadImm _ _ => none
  | .addImm _ _ => none
  | .copy _ _ => none
  | .orReg _ _ => none
  | .andReg _ _ => none
  | .xorReg _ _ => none
  | .addReg _ _ => none
  | .subReg _ _ => none
  | .shiftRight _ _ => none
  | .subnReg _ _ => none
  | .shiftLeft _ _ => none
  | .skipNeqReg _ _ => none
  | .setIndex _ => none
  | .jumpIndexed _ => none
  | .random _ _ => none
  | .getDelay _ => none
  | .waitKey _ => none
  | .setDelay _ => none
  | .setSound _ => none
  | .addIndex _ => none
  | .fontIndex _ => none

/-- The registers V0 to VX. -/
def regsUpTo (x : Reg) : List Reg := (List.finRange 16).filter fun k => k ≤ x

/-- The "reads" column of R15. -/
def regsRead : Instr → List Reg
  | .clear => []
  | .ret => []
  | .sys _ => []
  | .jump _ => []
  | .call _ => []
  | .skipEqImm x _ => [x]
  | .skipNeqImm x _ => [x]
  | .skipEqReg x y => [x, y]
  | .loadImm _ _ => []
  | .addImm x _ => [x]
  | .copy _ y => [y]
  | .orReg x y => [x, y]
  | .andReg x y => [x, y]
  | .xorReg x y => [x, y]
  | .addReg x y => [x, y]
  | .subReg x y => [x, y]
  | .shiftRight x _ => [x]
  | .subnReg x y => [x, y]
  | .shiftLeft x _ => [x]
  | .skipNeqReg x y => [x, y]
  | .setIndex _ => []
  | .jumpIndexed _ => [0]
  | .random _ _ => []
  | .drawSprite x y _ => [x, y]
  | .skipIfPressed x => [x]
  | .skipIfNotPressed x => [x]
  | .getDelay _ => []
  | .waitKey _ => []
  | .setDelay x => [x]
  | .setSound x => [x]
  | .addIndex x => [x]
  | .fontIndex x => [x]
  | .storeBcd x => [x]
  | .storeRegs x => regsUpTo x
  | .loadRegs _ => []

/-- The "writes" column of R15. -/
def regsWritten : Instr → List Reg
  | .clear => []
  | .ret => []
  | .sys _ => []
  | .jump _ => []
  | .call _ => []
  | .skipEqImm _ _ => []
  | .skipNeqImm _ _ => []
  | .skipEqReg _ _ => []
  | .loadImm x _ => [x]
  | .addImm x _ => [x]
  | .copy x _ => [x]
  | .orReg x _ => [x]
  | .andReg x _ => [x]
  | .xorReg x _ => [x]
  | .addReg x _ => [x, vf]
  | .subReg x _ => [x, vf]
  | .shiftRight x _ => [x, vf]
  | .subnReg x _ => [x, vf]
  | .shiftLeft x _ => [x, vf]
  | .skipNeqReg _ _ => []
  | .setIndex _ => []
  | .jumpIndexed _ => []
  | .random x _ => [x]
  | .drawSprite _ _ _ => [vf]
  | .skipIfPressed _ => []
  | .skipIfNotPressed _ => []
  | .getDelay x => [x]
  | .waitKey x => [x]
  | .setDelay _ => []
  | .setSound _ => []
  | .addIndex _ => [vf]
  | .fontIndex _ => []
  | .storeBcd _ => []
  | .storeRegs _ => []
  | .loadRegs x => regsUpTo x

/-- A run has reached its end at address `a`: RUN = RUNNING, pc = `a`, and the word there, whose two bytes exist, jumps to
itself (R125). It does not say that the host stops stepping, nor anything of the timers, the tone or the last frame. -/
def State.EndedAt (s : State) (a : Addr) : Prop :=
  s.run = .running ∧ s.pc = a.setWidth 16 ∧ a.toNat + 1 ≤ 0xFFF ∧
    wordOfBytes (s.readByte a.toNat) (s.readByte (a.toNat + 1)) = encode (.jump a)

/-- The encoding that an instruction's rule names, by match and mask (R12): the instruction's word carries the match under the
mask, and decodes to the instruction. -/
def EncodedAs (i : Instr) (pattern mask : Word) : Prop := encode i &&& mask = pattern ∧ decodeWord (encode i) = .instr i

/-! ### The shapes of an instruction's effect, from the state `s` before to the state `t` after, with the frame -/

/-- One register is written and pc goes to the next word; nothing else changes (R12). -/
def WritesReg (x : Reg) (b : Byte) (s t : State) : Prop :=
  t.getV x = b ∧ (∀ k, k ≠ x → t.getV k = s.getV k) ∧ t.pc = s.pc + 2 ∧ t = { s with v := t.v, pc := t.pc }

/-- A result goes to VX, then a flag to VF, which stays when X = 0xF (R16); pc goes to the next word; nothing else changes. -/
def WritesRegThenFlag (x : Reg) (b : Byte) (flag : Prop) (s t : State) : Prop :=
  (flag → t.getV vf = 1) ∧ (¬flag → t.getV vf = 0) ∧ (x ≠ vf → t.getV x = b) ∧
    (∀ k, k ≠ x → k ≠ vf → t.getV k = s.getV k) ∧ t.pc = s.pc + 2 ∧ t = { s with v := t.v, pc := t.pc }

/-- pc passes over one word more when the condition holds; nothing else changes (R69). -/
def SkipsWhen (condition : Prop) (s t : State) : Prop :=
  (condition → t.pc = s.pc + 4) ∧ (¬condition → t.pc = s.pc + 2) ∧ t = { s with pc := t.pc }

/-- The fatal entry: RUN, FAULT and the status handed out, and nothing else (R104). -/
def FatalEntry (code : FatalCode) (s t : State) : Prop :=
  t = { s with run := .halted, fault := code, status := .fatal code }

/-- The sprite of `n` rows at I, drawn at the coordinates in VX and VY, has a 1 bit on the cell (p, q) (R88): bit `7 - c` of byte
`r` falls on column `(VX + c) mod 64` and row `(VY + r) mod 32`. -/
def SpriteCovers (s : State) (x y : Reg) (n : Nat) (p : Column) (q : Row) : Prop :=
  ∃ r < n, ∃ c < 8, p.val = ((s.getV x).toNat + c) % 64 ∧ q.val = ((s.getV y).toNat + r) % 32 ∧
    (s.readByte (s.blockBase + r)).getLsbD (7 - c) = true

/-- How many of the 65536 words decode to an answer that `p` holds of (R58). -/
def countWords (p : Decoded → Bool) : Nat := (List.range 65536).countP fun n => p (decodeWord (BitVec.ofNat 16 n))

end Sys2Proof.Machine
end

