-- ==== Sys2Proof/Certificates/Slice0/Obligations.lean ====
section
/-! DEFINITION. The statements for the provers: what the spec's numbered rules say an instruction or the machine does. -/

open Sys2Proof Sys2Proof.Machine

/-! ### Reset -/

/-- R31, R40, R126: every item of state after reset, the memory byte by byte. (The status, the model's own field, is left out.) -/
def Obligations.ResetLeavesTheTabledState : Prop :=
  (∀ k, State.reset.getV k = 0) ∧ State.reset.index = 0 ∧ State.reset.pc = 0x200 ∧ State.reset.sp.val = 0 ∧
  (∀ k : Fin 16, State.reset.stack[k] = 0) ∧ State.reset.dt = 0 ∧ State.reset.st = 0 ∧
  (∀ x y, State.reset.pixel x y = false) ∧ (∀ k, State.reset.pressed k = false) ∧ State.reset.redraw = false ∧
  State.reset.run = .unloaded ∧ State.reset.fault = .none ∧ State.reset.rng = Config.rngSeed ∧
  (∀ a, a < 0x50 → State.reset.readByte a = fontByte a) ∧
  (∀ a, 0x50 ≤ a → a ≤ 0xFFF → State.reset.readByte a = 0)

/-- The invariant holds after reset. -/
def Obligations.ResetMeetsTheInvariant : Prop := State.reset.Inv

/-! ### The invariant and whole-machine rules -/

/-- Every step keeps the invariant: memory canonical, FAULT set exactly when HALTED, a FATAL status naming FAULT, pc at most
0x10FE, pushed addresses at most 0xFFE (from R19, R27, R28, R34, R65). -/
def Obligations.EveryStepKeepsTheInvariant : Prop :=
  ∀ s t : State, s.Inv → step s = .next t → t.Inv

/-- Every action of the host keeps the invariant (R120). -/
def Obligations.EveryHostActionKeepsTheInvariant : Prop :=
  ∀ (a : HostAction) (s : State), s.Inv → (hostAct a s).Inv

/-- The inference of R19: pc never exceeds 0x10FE, whatever program the host loads and whatever it does between steps. -/
def Obligations.ReachablePcNeverExceeds10FE : Prop := ∀ s : State, s.Reachable → s.pc.toNat ≤ 0x10FE

/-- R108: `step` always answers, with exactly one of five statuses, and each goes with its state change. -/
def Obligations.StepReturnsOneStatusWithItsChange : Prop :=
  (∀ s : State, ∃ t, step s = .next t ∧
    ((t.status = .ok ∧ ∃ w i u, s.run = .running ∧ s.fetch = some w ∧ decodeWord w = .instr i ∧
        exec i { s with status := .ok } = .next u ∧ t = u.timerUpdate) ∨
     (t.status = .waitKey ∧ s.run = .running ∧ (∀ k : Key, s.keys[k] = false) ∧
        (∃ w x, s.fetch = some w ∧ decodeWord w = .instr (.waitKey x)) ∧
        t = { s.timerUpdate with status := .waitKey }) ∨
     (∃ w, t.status = .unknownOpcode w ∧ s.run = .running ∧ s.fetch = some w ∧
        ((∃ r, decodeWord w = .rejected r) ∨ ∃ nnn, decodeWord w = .instr (.sys nnn)) ∧
        t = { s.timerUpdate with pc := s.pc + 2, status := .unknownOpcode w }) ∨
     (∃ c, t.status = .fatal c ∧ FatalEntry c s t ∧
        ((s.run = .running ∧ c ≠ .none) ∨ (s.run = .halted ∧ c = s.fault))) ∨
     (t.status = .notRunning ∧ s.run = .unloaded ∧ t = { s with status := .notRunning }))) ∧
  (∀ (rom : List Byte) (s : State), (loadProgram rom s).status = .ok ∨
    (loadProgram rom s).status = .fatal .capacityExceeded ∨ (loadProgram rom s).status = .notAccepted)

/-- R54: a step with RUN = RUNNING whose fetched word decodes to a well-formed instruction is that instruction's execution, with
the status starting as OK and, unless it raised a fatal condition, the timer update after it. -/
def Obligations.StepRunsTheDecodedInstruction : Prop :=
  ∀ (s t : State) (i : Instr), i.wellFormed = true → s.run = .running → s.pc.toNat + 1 ≤ 0xFFF →
    decodeWord (wordOfBytes (s.readByte s.pc.toNat) (s.readByte (s.pc.toNat + 1))) = .instr i →
    exec i { s with status := .ok } = .next t →
    (t.run = .halted → step s = .next t) ∧
    (t.run ≠ .halted → step s = .next { t with dt := countdown t.dt, st := countdown t.st })

/-- R60: a step over a word that is no instruction reports it, passes over it, and updates the timers; nothing else. -/
def Obligations.StepPassesOverAnUnknownWord : Prop :=
  ∀ (s : State) (w : Word) (r : Rejection), s.run = .running → s.fetch = some w → decodeWord w = .rejected r →
    step s = .next { s with
      pc := s.pc + 2, dt := countdown s.dt, st := countdown s.st, status := .unknownOpcode w }

/-- R55: the fetch needs pc ≤ 0xFFE and reads the big-endian word there; from a higher pc the step is fatal. -/
def Obligations.FetchReadsTheWordOrIsFatal : Prop :=
  ∀ s : State, (s.pc.toNat ≤ 0xFFE → ∃ w, s.fetch = some w ∧
      w.toNat = (s.readByte s.pc.toNat).toNat * 256 + (s.readByte (s.pc.toNat + 1)).toNat) ∧
    (0xFFE < s.pc.toNat → s.fetch = none ∧
      (s.run = .running → ∃ t, step s = .next t ∧ FatalEntry .addressOutOfRange s t))

/-- R106: while HALTED, any number of steps answers FATAL(FAULT) and changes nothing, a load is refused, and of all host
actions only reset leaves HALTED. -/
def Obligations.HaltedStaysHaltedUntilReset : Prop :=
  ∀ s : State, s.run = .halted →
    (∀ n, Host.Core.run Sys2Proof.core (n + 1) s = .next { s with status := .fatal s.fault }) ∧
    (∀ rom, loadProgram rom s = { s with status := .notAccepted }) ∧
    (∀ a, (hostAct a s).run ≠ .halted → a = .reset)

/-- R113: before a successful load a step answers NOT_RUNNING and changes nothing. -/
def Obligations.StepBeforeLoadChangesNothing : Prop :=
  ∀ s : State, s.run = .unloaded → step s = .next { s with status := .notRunning }

/-- R104, R105: each instruction tests its one fault condition first, and the fetch its own. When it holds, only RUN, FAULT and
the status change, the timers included among what stays; when it does not, the instruction completes and RUN and FAULT stay. -/
def Obligations.FatalConditionsArePrecise : Prop :=
  (∀ (i : Instr) (s : State),
    (∀ c, fatalCondition s i = some c → ∃ t, exec i s = .next t ∧ FatalEntry c s t) ∧
    (fatalCondition s i = none → ∃ t, exec i s = .next t ∧ t.run = s.run ∧ t.fault = s.fault)) ∧
  (∀ s : State, s.run = .running → 0xFFE < s.pc.toNat → ∃ t, step s = .next t ∧ FatalEntry .addressOutOfRange s t) ∧
  (∀ s t : State, s.run = .running → step s = .next t → t.run = .halted → FatalEntry t.fault s t)

/-- The writes column of R15: a register whose value an instruction changes is one of those it is tabled to write. -/
def Obligations.OnlyTabledRegistersAreWritten : Prop :=
  ∀ (i : Instr) (s t : State) (k : Reg), exec i s = .next t → t.getV k ≠ s.getV k → k ∈ regsWritten i

/-- The reads column of R15: registers an instruction is not tabled to read cannot influence anything it does. Two runs that
differ only in such registers leave the same state but for registers the instruction did not write. -/
def Obligations.OnlyTabledRegistersAreRead : Prop :=
  ∀ (i : Instr) (s t t' : State) (v' : Vector Byte 16), (∀ k ∈ regsRead i, v'[k] = s.getV k) →
    exec i s = .next t → exec i { s with v := v' } = .next t' →
    t' = { t with v := t'.v } ∧
      ((∀ k ∈ regsWritten i, t'.getV k = t.getV k) ∨ (t.v = s.v ∧ t'.v = v'))

/-- R24, R25, R26, R29: only `clear` and `draw-sprite` write the framebuffer, and they set REDRAW on every execution that
completes; no instruction clears REDRAW or writes KEY; only `random` moves the random source, and it does so once. -/
def Obligations.DevicesAreWrittenOnlyByTheirInstructions : Prop :=
  ∀ (i : Instr) (s t : State), exec i s = .next t →
    t.keys = s.keys ∧
    ((i = .clear ∨ ∃ x y n, i = .drawSprite x y n) → fatalCondition s i = none → t.redraw = true) ∧
    ((i ≠ .clear ∧ ∀ x y n, i ≠ .drawSprite x y n) → t.fb = s.fb ∧ t.redraw = s.redraw) ∧
    ((∃ x nn, i = .random x nn) → t.rng = (rngNext s.rng).2) ∧
    ((∀ x nn, i ≠ .random x nn) → t.rng = s.rng)

/-- R17, R20, R21, R22, R23, R45: who writes I, the stack, the timers and memory. -/
def Obligations.PointersTimersAndMemoryHaveTheirWriters : Prop :=
  ∀ (i : Instr) (s t : State), exec i s = .next t →
    (t.index ≠ s.index → (∃ nnn, i = .setIndex nnn) ∨ (∃ x, i = .addIndex x) ∨ (∃ x, i = .fontIndex x) ∨
      (indexAdvance = true ∧ ∃ x, i = .storeRegs x ∨ i = .loadRegs x)) ∧
    (t.sp ≠ s.sp → i = .ret ∨ ∃ nnn, i = .call nnn) ∧
    (∀ k : Fin 16, t.stack[k] ≠ s.stack[k] → (∃ nnn, i = .call nnn) ∧ k.val = s.sp.val) ∧
    (t.dt ≠ s.dt → ∃ x, i = .setDelay x) ∧
    (t.st ≠ s.st → ∃ x, i = .setSound x) ∧
    (∀ a, t.readByte a ≠ s.readByte a →
      (∃ x, i = .storeBcd x ∧ s.blockBase ≤ a ∧ a ≤ s.blockBase + 2) ∨
      (∃ x, i = .storeRegs x ∧ s.blockBase ≤ a ∧ a ≤ s.blockBase + x.val))

/-- Equal memories are equal data: two memories in canonical form that read the same everywhere are the same list. -/
def Obligations.CanonicalMemoryIsDeterminedByItsReads : Prop :=
  ∀ m n : Memory, m.wf = true → n.wf = true → (∀ a, m.readByte a = n.readByte a) → m = n

/-! ### Encoding -/

/-- Decoding the word of any well-formed instruction gives it back, with every operand at every value (R52, R62). -/
def Obligations.DecodeOfEncodeIsTheInstruction : Prop :=
  ∀ i : Instr, i.wellFormed = true → decodeWord (encode i) = .instr i ∧ decodeBytes (bytesOfWord (encode i)) = .instr i

/-- Each word has at most one meaning: what it decodes to is well-formed and encodes to that word (R52, R56). -/
def Obligations.EncodeOfDecodeIsTheWord : Prop :=
  ∀ (w : Word) (i : Instr), decodeWord w = .instr i → i.wellFormed = true ∧ encode i = w

/-- R59: the UNKNOWN words are exactly the five patterns, each rejected under its own name. -/
def Obligations.UnknownWordsAreExactlyThePatterns : Prop :=
  ∀ w : Word,
    (decodeWord w = .rejected .unknown5XYN ↔ w.toNat / 4096 = 5 ∧ w.toNat % 16 ≠ 0) ∧
    (decodeWord w = .rejected .unknown8XYN ↔
      w.toNat / 4096 = 8 ∧ w.toNat % 16 ∈ [0x8, 0x9, 0xA, 0xB, 0xC, 0xD, 0xF]) ∧
    (decodeWord w = .rejected .unknown9XYN ↔ w.toNat / 4096 = 9 ∧ w.toNat % 16 ≠ 0) ∧
    (decodeWord w = .rejected .unknownEXSS ↔ w.toNat / 4096 = 0xE ∧ w.toNat % 256 ∉ [0x9E, 0xA1]) ∧
    (decodeWord w = .rejected .unknownFXSS ↔ w.toNat / 4096 = 0xF ∧
      w.toNat % 256 ∉ [0x07, 0x0A, 0x15, 0x18, 0x1E, 0x29, 0x33, 0x55, 0x65]) ∧
    decodeWord w ≠ .rejected .truncated

/-- R56: the two exact words first, then `sys` for the rest of family 0, then the one row of the table that the word fits, and
UNKNOWN when none does. The rows are pairwise disjoint. -/
def Obligations.DecodePicksTheOneRowThatFits : Prop :=
  (decodeWord 0x00E0 = .instr .clear ∧ decodeWord 0x00EE = .instr .ret) ∧
  (∀ w : Word, w ≠ 0x00E0 → w ≠ 0x00EE → w.toNat / 4096 = 0 → ∃ nnn, decodeWord w = .instr (.sys nnn)) ∧
  (∀ (w : Word) (r : TableRow), w.toNat / 4096 ≠ 0 → r ∈ matchedRows → r.fits w = true →
    ∃ i, decodeWord w = .instr i ∧ rowOf i = r) ∧
  (∀ w : Word, w.toNat / 4096 ≠ 0 → (∀ r ∈ matchedRows, r.fits w = false) → ∃ q, decodeWord w = .rejected q) ∧
  (∀ (w : Word) (r r' : TableRow), r ∈ matchedRows → r' ∈ matchedRows → r.fits w = true → r'.fits w = true → r = r')

/-- The counts of R58, an inference the spec marks as its own: 43954 words of the 34 source rows, 4094 of `sys`, 17488 UNKNOWN. -/
def Obligations.WordCountsAgreeWithTheSpec : Prop :=
  countWords (fun d => match d with | .instr (.sys _) => false | .instr _ => true | .rejected _ => false) = 43954 ∧
  countWords (fun d => match d with | .instr (.sys _) => true | _ => false) = 4094 ∧
  countWords (fun d => match d with | .instr _ => false | .rejected _ => true) = 17488

/-- Thirteen words written out from the table's encodings, one of each family but 4, 6 and B, decode to what they stand for. -/
def Obligations.SampleWordsDecodeAsTabled : Prop :=
  decodeWord 0b0000000011100000 = .instr .clear ∧
  decodeWord 0b0001001000110100 = .instr (.jump 0x234) ∧
  decodeWord 0b0010001100000000 = .instr (.call 0x300) ∧
  decodeWord 0b0011001101000010 = .instr (.skipEqImm 3 0x42) ∧
  decodeWord 0b0101000100100000 = .instr (.skipEqReg 1 2) ∧
  decodeWord 0b0111000000000011 = .instr (.addImm 0 0x03) ∧
  decodeWord 0b1000000100100111 = .instr (.subnReg 1 2) ∧
  decodeWord 0b1001000100100000 = .instr (.skipNeqReg 1 2) ∧
  decodeWord 0b1010001011110000 = .instr (.setIndex 0x2F0) ∧
  decodeWord 0b1100000100001111 = .instr (.random 1 0x0F) ∧
  decodeWord 0b1101000100100101 = .instr (.drawSprite 1 2 5) ∧
  decodeWord 0b1110000110100001 = .instr (.skipIfNotPressed 1) ∧
  decodeWord 0b1111101000110011 = .instr (.storeBcd 0xA)

/-! ### Family 0 -/

/-- R64: `clear` blanks every cell, sets REDRAW, and changes nothing else but pc. -/
def Obligations.ClearBlanksTheScreen : Prop :=
  EncodedAs .clear 0x00E0 0xFFFF ∧
  ∀ s : State, ∃ t, exec .clear s = .next t ∧ (∀ x y, t.pixel x y = false) ∧ t.redraw = true ∧ t.pc = s.pc + 2 ∧
    t = { s with fb := t.fb, redraw := t.redraw, pc := t.pc }

/-- R65: `return` with an entry on the stack resumes at the popped address plus 2 and clears no entry; with none it is fatal. -/
def Obligations.ReturnResumesAfterTheCallSite : Prop :=
  EncodedAs .ret 0x00EE 0xFFFF ∧
  ∀ s : State,
    (∀ k : Fin 16, s.sp.val = k.val + 1 → ∃ t, exec .ret s = .next t ∧ t.sp.val = k.val ∧ t.pc = s.stack[k] + 2 ∧
      t = { s with sp := t.sp, pc := t.pc }) ∧
    (s.sp.val = 0 → ∃ t, exec .ret s = .next t ∧ FatalEntry .stackUnderflow s t)

/-- R66: `sys` reports the whole word and passes over it; nothing else changes. -/
def Obligations.SysReportsItsWord : Prop :=
  (∀ nnn : Addr, nnn ≠ 0x0E0 → nnn ≠ 0x0EE → EncodedAs (.sys nnn) 0x0000 0xF000) ∧
  ∀ (nnn : Addr) (s : State), ∃ t w, exec (.sys nnn) s = .next t ∧ w.toNat = nnn.toNat ∧
    t = { s with pc := s.pc + 2, status := .unknownOpcode w }

/-! ### Families 1 to 7, 9, A, B, C -/

/-- R67: `jump` sets pc to NNN and changes nothing else. -/
def Obligations.JumpSetsPc : Prop :=
  (∀ nnn : Addr, EncodedAs (.jump nnn) 0x1000 0xF000) ∧
  ∀ (nnn : Addr) (s : State), ∃ t, exec (.jump nnn) s = .next t ∧ t.pc.toNat = nnn.toNat ∧ t = { s with pc := t.pc }

/-- R68: `call` pushes its own address and jumps, with room on the stack; the 17th nested call is fatal. -/
def Obligations.CallPushesItsOwnAddress : Prop :=
  (∀ nnn : Addr, EncodedAs (.call nnn) 0x2000 0xF000) ∧
  ∀ (nnn : Addr) (s : State),
    (∀ k : Fin 16, s.sp.val = k.val → ∃ t, exec (.call nnn) s = .next t ∧ t.stack[k] = s.pc ∧
      (∀ j : Fin 16, j ≠ k → t.stack[j] = s.stack[j]) ∧ t.sp.val = k.val + 1 ∧ t.pc.toNat = nnn.toNat ∧
      t = { s with stack := t.stack, sp := t.sp, pc := t.pc }) ∧
    (s.sp.val = 16 → ∃ t, exec (.call nnn) s = .next t ∧ FatalEntry .stackOverflow s t)

/-- R65, R68 together: a call and a return from any state that has the call's stack resume at call site + 2 with the stack
pointer as before the call. -/
def Obligations.CallThenReturnComesBack : Prop :=
  ∀ (nnn : Addr) (s : State), s.sp.val < 16 → ∃ t, exec (.call nnn) s = .next t ∧
    ∀ u : State, u.sp = t.sp → u.stack = t.stack → ∃ r, exec .ret u = .next r ∧ r.pc = s.pc + 2 ∧ r.sp = s.sp ∧
      r = { u with sp := r.sp, pc := r.pc }

/-- R69, R70, R71, R84: the four skips on register values, and their frame. -/
def Obligations.RegisterSkipsMovePcOnly : Prop :=
  (∀ (x : Reg) (nn : Byte), EncodedAs (.skipEqImm x nn) 0x3000 0xF000) ∧
  (∀ (x : Reg) (nn : Byte), EncodedAs (.skipNeqImm x nn) 0x4000 0xF000) ∧
  (∀ x y : Reg, EncodedAs (.skipEqReg x y) 0x5000 0xF00F) ∧ (∀ x y : Reg, EncodedAs (.skipNeqReg x y) 0x9000 0xF00F) ∧
  (∀ (x : Reg) (nn : Byte) (s : State), ∃ t, exec (.skipEqImm x nn) s = .next t ∧ SkipsWhen (s.getV x = nn) s t) ∧
  (∀ (x : Reg) (nn : Byte) (s : State), ∃ t, exec (.skipNeqImm x nn) s = .next t ∧ SkipsWhen (s.getV x ≠ nn) s t) ∧
  (∀ (x y : Reg) (s : State), ∃ t, exec (.skipEqReg x y) s = .next t ∧ SkipsWhen (s.getV x = s.getV y) s t) ∧
  (∀ (x y : Reg) (s : State), ∃ t, exec (.skipNeqReg x y) s = .next t ∧ SkipsWhen (s.getV x ≠ s.getV y) s t)

/-- R72, R73: an immediate loaded, or added modulo 256 with no flag. -/
def Obligations.ImmediatesAreLoadedAndAdded : Prop :=
  (∀ (x : Reg) (nn : Byte), EncodedAs (.loadImm x nn) 0x6000 0xF000) ∧
  (∀ (x : Reg) (nn : Byte), EncodedAs (.addImm x nn) 0x7000 0xF000) ∧
  (∀ (x : Reg) (nn : Byte) (s : State), ∃ t, exec (.loadImm x nn) s = .next t ∧ WritesReg x nn s t) ∧
  (∀ (x : Reg) (nn : Byte) (s : State), ∃ t b, exec (.addImm x nn) s = .next t ∧ WritesReg x b s t ∧
    b.toNat = ((s.getV x).toNat + nn.toNat) % 256)

/-- R85: `set-index` loads I with NNN and changes nothing else but pc. -/
def Obligations.SetIndexLoadsI : Prop :=
  (∀ nnn : Addr, EncodedAs (.setIndex nnn) 0xA000 0xF000) ∧
  ∀ (nnn : Addr) (s : State), ∃ t, exec (.setIndex nnn) s = .next t ∧ t.index.toNat = nnn.toNat ∧ t.pc = s.pc + 2 ∧
    t = { s with index := t.index, pc := t.pc }

/-- R86: `jump-indexed` jumps to NNN plus V0, whatever the X nibble, without wrapping at 0x1000. -/
def Obligations.JumpIndexedAddsV0 : Prop :=
  (∀ nnn : Addr, EncodedAs (.jumpIndexed nnn) 0xB000 0xF000) ∧
  ∀ (nnn : Addr) (s : State), ∃ t, exec (.jumpIndexed nnn) s = .next t ∧ t.pc.toNat = nnn.toNat + (s.getV 0).toNat ∧
    t = { s with pc := t.pc }

/-- R87: `random` stores the byte RNG_NEXT gives, masked, and advances the random source once. Nothing is assumed of RNG_NEXT, so
this holds for every byte drawn (D10). -/
def Obligations.RandomStoresTheMaskedByte : Prop :=
  (∀ (x : Reg) (nn : Byte), EncodedAs (.random x nn) 0xC000 0xF000) ∧
  ∀ (x : Reg) (nn r : Byte) (next : Nat) (s : State), rngNext s.rng = (r, next) → ∃ t, exec (.random x nn) s = .next t ∧
    t.getV x = r &&& nn ∧ (∀ k, k ≠ x → t.getV k = s.getV k) ∧ t.rng = next ∧ t.pc = s.pc + 2 ∧
    t = { s with v := t.v, rng := t.rng, pc := t.pc }

/-! ### Family 8 -/

/-- R75 to R78: copy, or, and, xor, bit by bit, with VF untouched unless X = 0xF. -/
def Obligations.CopyAndLogicWriteVX : Prop :=
  (∀ x y : Reg, EncodedAs (.copy x y) 0x8000 0xF00F) ∧ (∀ x y : Reg, EncodedAs (.orReg x y) 0x8001 0xF00F) ∧
  (∀ x y : Reg, EncodedAs (.andReg x y) 0x8002 0xF00F) ∧ (∀ x y : Reg, EncodedAs (.xorReg x y) 0x8003 0xF00F) ∧
  (∀ (x y : Reg) (s : State), ∃ t, exec (.copy x y) s = .next t ∧ WritesReg x (s.getV y) s t) ∧
  (∀ (x y : Reg) (s : State), ∃ t b, exec (.orReg x y) s = .next t ∧ WritesReg x b s t ∧
    ∀ n < 8, b.getLsbD n = ((s.getV x).getLsbD n || (s.getV y).getLsbD n)) ∧
  (∀ (x y : Reg) (s : State), ∃ t b, exec (.andReg x y) s = .next t ∧ WritesReg x b s t ∧
    ∀ n < 8, b.getLsbD n = ((s.getV x).getLsbD n && (s.getV y).getLsbD n)) ∧
  (∀ (x y : Reg) (s : State), ∃ t b, exec (.xorReg x y) s = .next t ∧ WritesReg x b s t ∧
    ∀ n < 8, b.getLsbD n = ((s.getV x).getLsbD n ^^ (s.getV y).getLsbD n))

/-- R79: the sum modulo 256, and VF = 1 exactly when the unbounded sum exceeds 255, written last. -/
def Obligations.AddRegSetsTheCarry : Prop :=
  (∀ x y : Reg, EncodedAs (.addReg x y) 0x8004 0xF00F) ∧
  ∀ (x y : Reg) (s : State), ∃ t b, exec (.addReg x y) s = .next t ∧
    b.toNat = ((s.getV x).toNat + (s.getV y).toNat) % 256 ∧
    WritesRegThenFlag x b (255 < (s.getV x).toNat + (s.getV y).toNat) s t

/-- R80, R82: the two subtractions modulo 256, and VF = 1 exactly when there is no borrow, written last. -/
def Obligations.SubtractionsSetNoBorrow : Prop :=
  (∀ x y : Reg, EncodedAs (.subReg x y) 0x8005 0xF00F) ∧ (∀ x y : Reg, EncodedAs (.subnReg x y) 0x8007 0xF00F) ∧
  (∀ (x y : Reg) (s : State), ∃ t b, exec (.subReg x y) s = .next t ∧
    b.toNat = ((s.getV x).toNat + 256 - (s.getV y).toNat) % 256 ∧
    WritesRegThenFlag x b ((s.getV y).toNat ≤ (s.getV x).toNat) s t) ∧
  (∀ (x y : Reg) (s : State), ∃ t b, exec (.subnReg x y) s = .next t ∧
    b.toNat = ((s.getV y).toNat + 256 - (s.getV x).toNat) % 256 ∧
    WritesRegThenFlag x b ((s.getV x).toNat ≤ (s.getV y).toNat) s t)

/-- R81, R83: logical shifts of VX by one place, VY not read, the bit shifted out to VF, written last. -/
def Obligations.ShiftsPutTheLostBitInVF : Prop :=
  (∀ x y : Reg, EncodedAs (.shiftRight x y) 0x8006 0xF00F) ∧ (∀ x y : Reg, EncodedAs (.shiftLeft x y) 0x800E 0xF00F) ∧
  (∀ (x y : Reg) (s : State), ∃ t b, exec (.shiftRight x y) s = .next t ∧ b.toNat = (s.getV x).toNat / 2 ∧
    WritesRegThenFlag x b ((s.getV x).toNat % 2 = 1) s t) ∧
  (∀ (x y : Reg) (s : State), ∃ t b, exec (.shiftLeft x y) s = .next t ∧ b.toNat = (s.getV x).toNat * 2 % 256 ∧
    WritesRegThenFlag x b (128 ≤ (s.getV x).toNat) s t)

/-! ### Family D -/

/-- R88, R89: `draw-sprite` with its sprite in the address space toggles exactly the cells the sprite covers, wrapped at both
edges; VF is 1 exactly when a covered cell was set; REDRAW is set; nothing else changes. N = 0 covers nothing and cannot fault;
any other sprite with a byte above 0xFFF is fatal. -/
def Obligations.DrawTogglesExactlyTheCoveredCells : Prop :=
  (∀ (x y : Reg) (n : Fin 16), EncodedAs (.drawSprite x y n) 0xD000 0xF000) ∧
  ∀ (x y : Reg) (n : Fin 16) (s : State),
    (n.val = 0 ∨ s.blockBase + n.val - 1 ≤ 0xFFF → ∃ t, exec (.drawSprite x y n) s = .next t ∧
      (∀ p q, SpriteCovers s x y n.val p q → t.pixel p q = !s.pixel p q) ∧
      (∀ p q, ¬SpriteCovers s x y n.val p q → t.pixel p q = s.pixel p q) ∧
      ((∃ p q, SpriteCovers s x y n.val p q ∧ s.pixel p q = true) → t.getV vf = 1) ∧
      ((∀ p q, SpriteCovers s x y n.val p q → s.pixel p q = false) → t.getV vf = 0) ∧
      (∀ k, k ≠ vf → t.getV k = s.getV k) ∧ t.redraw = true ∧ t.pc = s.pc + 2 ∧
      t = { s with v := t.v, fb := t.fb, redraw := t.redraw, pc := t.pc }) ∧
    (0 < n.val ∧ 0xFFF < s.blockBase + n.val - 1 →
      ∃ t, exec (.drawSprite x y n) s = .next t ∧ FatalEntry .addressOutOfRange s t)

/-- Drawing the same sprite twice at the same place restores the framebuffer, and the second draw leaves in VF whether the sprite
covers a cell that the first draw set (from R89). -/
def Obligations.DrawingTwiceRestoresTheScreen : Prop :=
  ∀ (x y : Reg) (n : Fin 16) (s : State), x ≠ vf → y ≠ vf → n.val = 0 ∨ s.blockBase + n.val - 1 ≤ 0xFFF →
    ∃ t u, exec (.drawSprite x y n) s = .next t ∧ exec (.drawSprite x y n) t = .next u ∧ u.fb = s.fb ∧
      (u.getV vf = 1 ↔ ∃ p q, SpriteCovers s x y n.val p q ∧ s.pixel p q = false) ∧
      (∀ k, k ≠ vf → u.getV k = s.getV k) ∧
      u = { s with v := u.v, redraw := true, pc := s.pc + 4 }

/-! ### Family E -/

/-- R90, R91: the key skips test the key that VX names; a key index above 0xF is fatal. -/
def Obligations.KeySkipsTestTheNamedKey : Prop :=
  (∀ x : Reg, EncodedAs (.skipIfPressed x) 0xE09E 0xF0FF) ∧ (∀ x : Reg, EncodedAs (.skipIfNotPressed x) 0xE0A1 0xF0FF) ∧
  ∀ (x : Reg) (s : State),
    (∀ k : Key, (s.getV x).toNat = k.val →
      (∃ t, exec (.skipIfPressed x) s = .next t ∧ SkipsWhen (s.keys[k] = true) s t) ∧
      (∃ t, exec (.skipIfNotPressed x) s = .next t ∧ SkipsWhen (s.keys[k] = false) s t)) ∧
    (0xF < (s.getV x).toNat →
      (∃ t, exec (.skipIfPressed x) s = .next t ∧ FatalEntry .keyIndexOutOfRange s t) ∧
      (∃ t, exec (.skipIfNotPressed x) s = .next t ∧ FatalEntry .keyIndexOutOfRange s t))

/-! ### Family F -/

/-- R92: `get-delay` reads DT as it is before this step's decrement, which then takes one from DT unless it is 0. -/
def Obligations.GetDelayReadsDT : Prop :=
  (∀ x : Reg, EncodedAs (.getDelay x) 0xF007 0xF0FF) ∧
  (∀ (x : Reg) (s : State), ∃ t, exec (.getDelay x) s = .next t ∧ WritesReg x s.dt s t) ∧
  (∀ (x : Reg) (w : Word) (s : State), s.run = .running → s.fetch = some w → decodeWord w = .instr (.getDelay x) →
    ∃ t, step s = .next t ∧ t.getV x = s.dt ∧ t.dt.toNat = s.dt.toNat - 1)

/-- R93: `wait-key` stores the least pressed key; with no key pressed only the status says so. -/
def Obligations.WaitKeyStoresTheLeastPressedKey : Prop :=
  (∀ x : Reg, EncodedAs (.waitKey x) 0xF00A 0xF0FF) ∧
  ∀ (x : Reg) (s : State),
    (∀ k : Key, s.keys[k] = true → (∀ j : Key, j < k → s.keys[j] = false) →
      ∃ t b, exec (.waitKey x) s = .next t ∧ b.toNat = k.val ∧ WritesReg x b s t) ∧
    ((∀ k : Key, s.keys[k] = false) → ∃ t, exec (.waitKey x) s = .next t ∧ t = { s with status := .waitKey })

/-- R94: while no key is pressed, any number of steps at a `wait-key` leaves pc there and changes only the timers. -/
def Obligations.WaitingStepsOnlyCountDown : Prop :=
  ∀ (x : Reg) (w : Word) (n : Nat) (s : State), s.run = .running → s.fetch = some w →
    decodeWord w = .instr (.waitKey x) → (∀ k : Key, s.keys[k] = false) →
    ∃ d e : Byte, d.toNat = s.dt.toNat - (n + 1) ∧ e.toNat = s.st.toNat - (n + 1) ∧
      Host.Core.run Sys2Proof.core (n + 1) s = .next { s with dt := d, st := e, status := .waitKey }

/-- R95, R96: `set-delay` and `set-sound` load their timer and change nothing else but pc. -/
def Obligations.TimersAreLoadedFromVX : Prop :=
  (∀ x : Reg, EncodedAs (.setDelay x) 0xF015 0xF0FF) ∧ (∀ x : Reg, EncodedAs (.setSound x) 0xF018 0xF0FF) ∧
  (∀ (x : Reg) (s : State), ∃ t, exec (.setDelay x) s = .next t ∧ t = { s with dt := s.getV x, pc := s.pc + 2 }) ∧
  (∀ (x : Reg) (s : State), ∃ t, exec (.setSound x) s = .next t ∧ t = { s with st := s.getV x, pc := s.pc + 2 })

/-- R97: `add-index` adds VX to I modulo 2^16; VF = 1 exactly when the unbounded sum exceeds 0xFFF; VX is read before VF is
written. -/
def Obligations.AddIndexSetsTheRangeFlag : Prop :=
  (∀ x : Reg, EncodedAs (.addIndex x) 0xF01E 0xF0FF) ∧
  ∀ (x : Reg) (s : State), ∃ t, exec (.addIndex x) s = .next t ∧
    t.index.toNat = (s.index.toNat + (s.getV x).toNat) % 65536 ∧
    (0xFFF < s.index.toNat + (s.getV x).toNat → t.getV vf = 1) ∧
    (s.index.toNat + (s.getV x).toNat ≤ 0xFFF → t.getV vf = 0) ∧
    (∀ k, k ≠ vf → t.getV k = s.getV k) ∧ t.pc = s.pc + 2 ∧ t = { s with v := t.v, index := t.index, pc := t.pc }

/-- R98: `font-index` sets I to VX times 5, VX not masked. -/
def Obligations.FontIndexPointsAtTheGlyph : Prop :=
  (∀ x : Reg, EncodedAs (.fontIndex x) 0xF029 0xF0FF) ∧
  ∀ (x : Reg) (s : State), ∃ t, exec (.fontIndex x) s = .next t ∧ t.index.toNat = (s.getV x).toNat * 5 ∧
    t.pc = s.pc + 2 ∧ t = { s with index := t.index, pc := t.pc }

/-- R99: `store-bcd` writes the three decimal digits at I, I+1, I+2 and no other byte; past 0xFFF it is fatal. -/
def Obligations.StoreBcdWritesThreeDigits : Prop :=
  (∀ x : Reg, EncodedAs (.storeBcd x) 0xF033 0xF0FF) ∧
  ∀ (x : Reg) (s : State),
    (s.blockBase + 2 ≤ 0xFFF → ∃ t, exec (.storeBcd x) s = .next t ∧
      (t.readByte s.blockBase).toNat = (s.getV x).toNat / 100 ∧
      (t.readByte (s.blockBase + 1)).toNat = (s.getV x).toNat / 10 % 10 ∧
      (t.readByte (s.blockBase + 2)).toNat = (s.getV x).toNat % 10 ∧
      (∀ a, a < s.blockBase ∨ s.blockBase + 2 < a → t.readByte a = s.readByte a) ∧
      t = { s with mem := t.mem, pc := s.pc + 2 }) ∧
    (0xFFF < s.blockBase + 2 → ∃ t, exec (.storeBcd x) s = .next t ∧ FatalEntry .addressOutOfRange s t)

/-- R100: `store-regs` writes V0 to VX at I to I+X and no other byte, and moves I exactly when INDEX_ADVANCE; past 0xFFF it is
fatal. It holds for both values of INDEX_ADVANCE. -/
def Obligations.StoreRegsWritesV0ToVX : Prop :=
  (∀ x : Reg, EncodedAs (.storeRegs x) 0xF055 0xF0FF) ∧
  ∀ (x : Reg) (s : State),
    (s.blockBase + x.val ≤ 0xFFF → ∃ t, exec (.storeRegs x) s = .next t ∧
      (∀ k, k ≤ x → t.readByte (s.blockBase + k.val) = s.getV k) ∧
      (∀ a, a < s.blockBase ∨ s.blockBase + x.val < a → t.readByte a = s.readByte a) ∧
      (indexAdvance = true → t.index.toNat = (s.index.toNat + x.val + 1) % 65536) ∧
      (indexAdvance = false → t.index = s.index) ∧
      t = { s with mem := t.mem, index := t.index, pc := s.pc + 2 }) ∧
    (0xFFF < s.blockBase + x.val → ∃ t, exec (.storeRegs x) s = .next t ∧ FatalEntry .addressOutOfRange s t)

/-- R101: `load-regs` loads V0 to VX from I to I+X and no other register, and moves I exactly when INDEX_ADVANCE; past 0xFFF it
is fatal. -/
def Obligations.LoadRegsReadsV0ToVX : Prop :=
  (∀ x : Reg, EncodedAs (.loadRegs x) 0xF065 0xF0FF) ∧
  ∀ (x : Reg) (s : State),
    (s.blockBase + x.val ≤ 0xFFF → ∃ t, exec (.loadRegs x) s = .next t ∧
      (∀ k, k ≤ x → t.getV k = s.readByte (s.blockBase + k.val)) ∧ (∀ k, x < k → t.getV k = s.getV k) ∧
      (indexAdvance = true → t.index.toNat = (s.index.toNat + x.val + 1) % 65536) ∧
      (indexAdvance = false → t.index = s.index) ∧
      t = { s with v := t.v, index := t.index, pc := s.pc + 2 }) ∧
    (0xFFF < s.blockBase + x.val → ∃ t, exec (.loadRegs x) s = .next t ∧ FatalEntry .addressOutOfRange s t)

/-- FX55 followed by FX65 with the same X and the same I restores V0 to VX, whatever the registers hold in between, provided the
memory in between is unchanged (the corner case of R101). -/
def Obligations.StoredRegistersLoadBack : Prop :=
  ∀ (x : Reg) (s : State), s.blockBase + x.val ≤ 0xFFF → ∃ t, exec (.storeRegs x) s = .next t ∧
    ∀ u : State, u.mem = t.mem → u.index = s.index → ∃ r, exec (.loadRegs x) u = .next r ∧
      ∀ k, k ≤ x → r.getV k = s.getV k

/-- R49: a `store-regs` that overwrites the next instruction is seen by the very next fetch. -/
def Obligations.NextFetchSeesTheStore : Prop :=
  ∀ (x : Reg) (w : Word) (s : State), s.run = .running → s.fetch = some w → decodeWord w = .instr (.storeRegs x) →
    1 ≤ x.val → s.index = s.pc + 2 → s.blockBase + x.val ≤ 0xFFF →
    ∃ t, step s = .next t ∧ t.fetch = some (wordOfBytes (s.getV 0) (s.getV 1))

/-! ### Timers, the host, and the end of a run -/

/-- R116: every step that executes without a fatal condition decrements each timer that is not 0, after the instruction's last
write, so a timer the instruction loads is decremented from the loaded value; a step that is fatal, or finds the core not
running, leaves both. -/
def Obligations.TimersCountOncePerStep : Prop :=
  ∀ s t : State, step s = .next t →
    (s.run = .running → t.run = .running → ∃ w, s.fetch = some w ∧
      ((∀ x, decodeWord w ≠ .instr (.setDelay x)) → t.dt.toNat = s.dt.toNat - 1) ∧
      ((∀ x, decodeWord w ≠ .instr (.setSound x)) → t.st.toNat = s.st.toNat - 1) ∧
      (∀ x, decodeWord w = .instr (.setDelay x) → t.dt.toNat = (s.getV x).toNat - 1) ∧
      (∀ x, decodeWord w = .instr (.setSound x) → t.st.toNat = (s.getV x).toNat - 1)) ∧
    (s.run ≠ .running ∨ t.run ≠ .running → t.dt = s.dt ∧ t.st = s.st)

/-- The inference of R117, with R118: a value written to a timer is decremented in the same step, so that the tone is on after it
exactly when VX is at least 2. -/
def Obligations.TimerWritesLoseOneInTheSameStep : Prop :=
  ∀ (x : Reg) (w : Word) (s : State), s.run = .running → s.fetch = some w →
    (decodeWord w = .instr (.setDelay x) → ∃ t, step s = .next t ∧ t.dt.toNat = (s.getV x).toNat - 1) ∧
    (decodeWord w = .instr (.setSound x) → ∃ t, step s = .next t ∧ t.st.toNat = (s.getV x).toNat - 1 ∧
      (t.tone = true ↔ 2 ≤ (s.getV x).toNat))

/-- R39: the three outcomes of a load. Accepted, it copies the bytes to 0x200 on and starts the core; too long, it halts the core
and writes no byte; at any other time it is refused. -/
def Obligations.LoadProgramCopiesOrRefuses : Prop :=
  ∀ (rom : List Byte) (s : State),
    (s.run ≠ .unloaded → loadProgram rom s = { s with status := .notAccepted }) ∧
    (s.run = .unloaded → 3584 < rom.length → FatalEntry .capacityExceeded s (loadProgram rom s)) ∧
    (s.run = .unloaded → rom.length ≤ 3584 →
      (∀ k, k < rom.length → (loadProgram rom s).readByte (0x200 + k) = rom.getD k 0) ∧
      (∀ a, a < 0x200 ∨ 0x200 + rom.length ≤ a → (loadProgram rom s).readByte a = s.readByte a) ∧
      loadProgram rom s = { s with mem := (loadProgram rom s).mem, run := .running, status := .ok })

/-- R127: the first step after a load from reset fetches the word at 0x200 and 0x201, the first two bytes of the ROM. -/
def Obligations.FirstFetchIsTheFirstRomWord : Prop :=
  ∀ (b0 b1 : Byte) (rest : List Byte), rest.length ≤ 3582 →
    (loadProgram (b0 :: b1 :: rest) State.reset).run = .running ∧
    (loadProgram (b0 :: b1 :: rest) State.reset).fetch = some (wordOfBytes b0 b1)

/-- R24, R25, R26, R118, R120: what the host writes between steps changes only the key named or REDRAW, and what it reads. -/
def Obligations.HostTouchesOnlyItsInterface : Prop :=
  (∀ (k : Key) (value : Nat) (s : State), (hostAct (.writeKey k value) s).keys[k] = decide (value ≠ 0) ∧
    (∀ j : Key, j ≠ k → (hostAct (.writeKey k value) s).keys[j] = s.keys[j]) ∧
    hostAct (.writeKey k value) s = { s with keys := (hostAct (.writeKey k value) s).keys }) ∧
  (∀ s : State, hostAct .clearRedraw s = { s with redraw := false }) ∧
  (∀ s : State, hostAct .reset s = State.reset) ∧
  (∀ s : State, s.hostView.tone = true ↔ s.st ≠ 0) ∧
  (∀ (s : State) (x : Column) (y : Row) (h : y.val * 64 + x.val < 2048),
    s.hostView.fb[y.val * 64 + x.val] = s.pixel x y) ∧
  (∀ s : State, s.hostView.redraw = s.redraw ∧ s.hostView.dt = s.dt ∧ s.hostView.st = s.st)

/-- R125: once a run has reached its end at `a`, any number of steps stays there and changes only the timers and the status. -/
def Obligations.EndedRunOnlyCountsDown : Prop :=
  ∀ (a : Addr) (n : Nat) (s : State), s.EndedAt a → ∃ t, Host.Core.run Sys2Proof.core n s = .next t ∧ t.EndedAt a ∧
    t.dt.toNat = s.dt.toNat - n ∧ t.st.toNat = s.st.toNat - n ∧
    t = { s with dt := t.dt, st := t.st, status := t.status }
end

