-- ==== Sys2Proof/Laws/Decode.lean ====
section
/-! SUPPORT. The small lemmas of the encodings, all through the number a word stands for: each field of a word as a quotient and
remainder, each format's word as a sum, and so what each field of an encoded word reads as. -/

namespace Sys2Proof

/-! ### Fields of a word as numbers -/

theorem family_toNat (w : Word) : (family w).toNat = w.toNat / 4096 := by
  have := w.isLt
  simp only [family, BitVec.extractLsb'_toNat, Nat.shiftRight_eq_div_pow]; omega

theorem fieldX_val (w : Word) : (fieldX w).val = w.toNat / 256 % 16 := by
  simp [fieldX, Nat.shiftRight_eq_div_pow]

theorem fieldY_val (w : Word) : (fieldY w).val = w.toNat / 16 % 16 := by
  simp [fieldY, Nat.shiftRight_eq_div_pow]

theorem fieldN_val (w : Word) : (fieldN w).val = w.toNat % 16 := by
  simp [fieldN]

theorem fieldNN_toNat (w : Word) : (fieldNN w).toNat = w.toNat % 256 := by
  simp [fieldNN]

theorem fieldNNN_toNat (w : Word) : (fieldNNN w).toNat = w.toNat % 4096 := by
  simp [fieldNNN]

/-! ### Words as sums of their fields -/

theorem append_toNat {a b : Nat} (x : BitVec a) (y : BitVec b) : (x ++ y).toNat = x.toNat * 2 ^ b + y.toNat := by
  rw [BitVec.toNat_append, ← Nat.shiftLeft_add_eq_or_of_lt y.isLt, Nat.shiftLeft_eq]

@[simp] theorem nibble_toNat (d : Fin 16) : (nibble d).toNat = d.val := rfl

theorem wordOfBytes_toNat (high low : Byte) : (wordOfBytes high low).toNat = high.toNat * 256 + low.toNat :=
  append_toNat high low

theorem encodeNNN_toNat (f : BitVec 4) (nnn : Addr) : (encodeNNN f nnn).toNat = f.toNat * 4096 + nnn.toNat :=
  append_toNat f nnn

theorem encodeXNN_toNat (f : BitVec 4) (x : Reg) (nn : Byte) :
    (encodeXNN f x nn).toNat = f.toNat * 4096 + x.val * 256 + nn.toNat := by
  rw [encodeXNN, append_toNat, append_toNat, nibble_toNat]; omega

theorem encodeXYN_toNat (f : BitVec 4) (x y : Reg) (n : Fin 16) :
    (encodeXYN f x y n).toNat = f.toNat * 4096 + x.val * 256 + y.val * 16 + n.val := by
  rw [encodeXYN, append_toNat, append_toNat, append_toNat, nibble_toNat, nibble_toNat, nibble_toNat]; omega

/-! ### The two bytes of a word -/

@[simp] theorem wordOfBytes_high_low (w : Word) : wordOfBytes (highByte w) (lowByte w) = w := by
  apply BitVec.eq_of_toNat_eq
  have := w.isLt
  simp only [wordOfBytes_toNat, highByte, lowByte, BitVec.extractLsb'_toNat, Nat.shiftRight_eq_div_pow]; omega

@[simp] theorem decodeBytes_bytesOfWord (w : Word) : decodeBytes (bytesOfWord w) = decodeWord w := by
  simp [decodeBytes, bytesOfWord]

/-! ### Fields of an encoded word -/

@[simp] theorem family_encodeNNN (f : BitVec 4) (nnn : Addr) : family (encodeNNN f nnn) = f := by
  apply BitVec.eq_of_toNat_eq; rw [family_toNat, encodeNNN_toNat]; omega

@[simp] theorem fieldNNN_encodeNNN (f : BitVec 4) (nnn : Addr) : fieldNNN (encodeNNN f nnn) = nnn := by
  apply BitVec.eq_of_toNat_eq; rw [fieldNNN_toNat, encodeNNN_toNat]; omega

@[simp] theorem family_encodeXNN (f : BitVec 4) (x : Reg) (nn : Byte) : family (encodeXNN f x nn) = f := by
  apply BitVec.eq_of_toNat_eq; rw [family_toNat, encodeXNN_toNat]; omega

@[simp] theorem fieldX_encodeXNN (f : BitVec 4) (x : Reg) (nn : Byte) : fieldX (encodeXNN f x nn) = x := by
  apply Fin.ext; rw [fieldX_val, encodeXNN_toNat]; omega

@[simp] theorem fieldNN_encodeXNN (f : BitVec 4) (x : Reg) (nn : Byte) : fieldNN (encodeXNN f x nn) = nn := by
  apply BitVec.eq_of_toNat_eq; rw [fieldNN_toNat, encodeXNN_toNat]; omega

@[simp] theorem family_encodeXYN (f : BitVec 4) (x y : Reg) (n : Fin 16) : family (encodeXYN f x y n) = f := by
  apply BitVec.eq_of_toNat_eq; rw [family_toNat, encodeXYN_toNat]; omega

@[simp] theorem fieldX_encodeXYN (f : BitVec 4) (x y : Reg) (n : Fin 16) : fieldX (encodeXYN f x y n) = x := by
  apply Fin.ext; rw [fieldX_val, encodeXYN_toNat]; omega

@[simp] theorem fieldY_encodeXYN (f : BitVec 4) (x y : Reg) (n : Fin 16) : fieldY (encodeXYN f x y n) = y := by
  apply Fin.ext; rw [fieldY_val, encodeXYN_toNat]; omega

@[simp] theorem fieldN_encodeXYN (f : BitVec 4) (x y : Reg) (n : Fin 16) : fieldN (encodeXYN f x y n) = n := by
  apply Fin.ext; rw [fieldN_val, encodeXYN_toNat]; omega

/-! ### The masks of the table's rows -/

/-- What the mask 0xF000 keeps: the family nibble. -/
theorem and_mask_family (w : Word) : w &&& 0xF000 = family w ++ (0 : BitVec 12) := by
  ext k hk
  simp only [family, BitVec.getElem_and, BitVec.getElem_append, BitVec.getElem_extractLsb']
  interval_cases k <;> simp [BitVec.getLsbD_eq_getElem]

/-- What the mask 0xF00F keeps: the family nibble and the low nibble. -/
theorem and_mask_low_nibble (w : Word) :
    w &&& 0xF00F = family w ++ (0 : BitVec 8) ++ nibble (fieldN w) := by
  rw [show nibble (fieldN w) = w.extractLsb' 0 4 from rfl]
  ext k hk
  simp only [family, BitVec.getElem_and, BitVec.getElem_append, BitVec.getElem_extractLsb']
  interval_cases k <;> simp [BitVec.getLsbD_eq_getElem]

/-- What the mask 0xF0FF keeps: the family nibble and the low byte. -/
theorem and_mask_low_byte (w : Word) : w &&& 0xF0FF = family w ++ (0 : BitVec 4) ++ fieldNN w := by
  ext k hk
  simp only [family, fieldNN, BitVec.getElem_and, BitVec.getElem_append, BitVec.getElem_extractLsb']
  interval_cases k <;> simp [BitVec.getLsbD_eq_getElem]

@[simp] theorem fieldNN_encodeXYN (f : BitVec 4) (x y : Reg) (n : Fin 16) :
    fieldNN (encodeXYN f x y n) = nibble y ++ nibble n := by
  apply BitVec.eq_of_toNat_eq
  rw [fieldNN_toNat, encodeXYN_toNat, append_toNat, nibble_toNat, nibble_toNat]; omega

end Sys2Proof
end

