-- ==== Sys2Proof/Laws/Memory.lean ====
section
/-! SUPPORT. The laws of memory: a read after a write gives the value written, a write leaves every other address alone, and
every memory operation keeps the canonical form. -/

namespace Sys2Proof.Machine

/-! ### Reads after one write -/

theorem Memory.readByte_insertCell (m : Memory) (a b : Nat) (x : Byte) :
    (m.insertCell a x).readByte b = if b = a then x else m.readByte b := by
  induction m with
  | nil => simp [Memory.insertCell, Memory.readByte]
  | cons c rest ih =>
    obtain ⟨d, w⟩ := c
    unfold Memory.insertCell
    split
    · simp only [Memory.readByte]
    · split
      · subst_vars; simp only [Memory.readByte]; split <;> rfl
      · simp only [Memory.readByte, ih]; split
        · subst_vars; rw [if_neg]; omega
        · rfl

theorem Memory.readByte_eraseCell (m : Memory) (a b : Nat) :
    (m.eraseCell a).readByte b = if b = a then Memory.unlisted a else m.readByte b := by
  induction m with
  | nil => simp only [Memory.eraseCell, Memory.readByte]; split <;> simp_all
  | cons c rest ih =>
    obtain ⟨d, w⟩ := c
    unfold Memory.eraseCell
    split
    · subst_vars; rw [ih]; simp only [Memory.readByte]; split <;> rfl
    · simp only [Memory.readByte, ih]; split
      · subst_vars; rw [if_neg]; omega
      · rfl

/-- What any address reads as after one write (R42, R47). -/
theorem Memory.readByte_writeByte (m : Memory) (a b : Nat) (x : Byte) :
    (m.writeByte a x).readByte b = if b = a then x else m.readByte b := by
  unfold Memory.writeByte
  split
  · subst_vars; exact Memory.readByte_eraseCell m a b
  · exact Memory.readByte_insertCell m a b x

@[simp] theorem Memory.readByte_writeByte_same (m : Memory) (a : Nat) (x : Byte) : (m.writeByte a x).readByte a = x := by
  simp [Memory.readByte_writeByte]

theorem Memory.readByte_writeByte_ne (m : Memory) {a b : Nat} (x : Byte) (h : b ≠ a) :
    (m.writeByte a x).readByte b = m.readByte b := by
  simp [Memory.readByte_writeByte, h]

/-! ### Reads after a block write -/

/-- What any address reads as after bytes are written from `a` on (R45, R47). -/
theorem Memory.readByte_writeBytes (m : Memory) (a b : Nat) (xs : List Byte) :
    (m.writeBytes a xs).readByte b =
      if a ≤ b ∧ b < a + xs.length then xs.getD (b - a) 0 else m.readByte b := by
  induction xs generalizing m a with
  | nil =>
    have : ¬(a ≤ b ∧ b < a) := by omega
    simp [Memory.writeBytes, this]
  | cons x xs ih =>
    simp only [Memory.writeBytes, ih, Memory.readByte_writeByte, List.length_cons]
    by_cases hb : b = a
    · subst hb
      have h1 : ¬(b + 1 ≤ b ∧ b < b + 1 + xs.length) := by omega
      have h2 : b ≤ b ∧ b < b + (xs.length + 1) := by omega
      rw [if_neg h1, if_pos rfl, if_pos h2]; simp
    · by_cases h : a + 1 ≤ b ∧ b < a + 1 + xs.length
      · have h2 : a ≤ b ∧ b < a + (xs.length + 1) := by omega
        have e : b - a = (b - (a + 1)) + 1 := by omega
        rw [if_pos h, if_pos h2, e, List.getD_cons_succ]
      · have h2 : ¬(a ≤ b ∧ b < a + (xs.length + 1)) := by omega
        rw [if_neg h, if_neg hb, if_neg h2]

theorem Memory.readByte_writeBytes_outside (m : Memory) {a b : Nat} {xs : List Byte} (h : b < a ∨ a + xs.length ≤ b) :
    (m.writeBytes a xs).readByte b = m.readByte b := by
  rw [Memory.readByte_writeBytes, if_neg (by omega)]

theorem Memory.readByte_writeBytes_inside (m : Memory) {a k : Nat} {xs : List Byte} (h : k < xs.length) :
    (m.writeBytes a xs).readByte (a + k) = xs[k] := by
  rw [Memory.readByte_writeBytes, if_pos (by omega), Nat.add_sub_cancel_left, List.getD_eq_getElem _ _ h]

/-! ### The canonical form -/

/-- The form of a nonempty list, in pieces. -/
theorem Memory.wfFrom_cons (low a : Nat) (x : Byte) (rest : Memory) :
    Memory.wfFrom low ((a, x) :: rest) = true ↔
      low ≤ a ∧ a < Config.memSize ∧ x ≠ Memory.unlisted a ∧ Memory.wfFrom (a + 1) rest = true := by
  simp [Memory.wfFrom, and_assoc]

theorem Memory.wfFrom_mono {low low' : Nat} {m : Memory} (h : low' ≤ low) (hm : Memory.wfFrom low m = true) :
    Memory.wfFrom low' m = true := by
  cases m with
  | nil => rfl
  | cons c rest =>
    rw [Memory.wfFrom_cons] at hm ⊢
    exact ⟨by omega, hm.2⟩

theorem Memory.wfFrom_insertCell {low a : Nat} {x : Byte} {m : Memory} (hl : low ≤ a) (ha : a < Config.memSize)
    (hx : x ≠ Memory.unlisted a) (hm : Memory.wfFrom low m = true) : Memory.wfFrom low (m.insertCell a x) = true := by
  induction m generalizing low with
  | nil => simp [Memory.insertCell, Memory.wfFrom, hl, ha, hx]
  | cons c rest ih =>
    obtain ⟨b, w⟩ := c
    have hc := (Memory.wfFrom_cons low b w rest).mp hm
    unfold Memory.insertCell
    split
    · exact (Memory.wfFrom_cons ..).mpr ⟨hl, ha, hx, (Memory.wfFrom_cons ..).mpr ⟨by omega, hc.2⟩⟩
    · split
      · subst_vars; exact (Memory.wfFrom_cons ..).mpr ⟨hl, ha, hx, hc.2.2.2⟩
      · exact (Memory.wfFrom_cons ..).mpr ⟨hc.1, hc.2.1, hc.2.2.1, ih (by omega) hc.2.2.2⟩

theorem Memory.wfFrom_eraseCell {low : Nat} {m : Memory} (a : Nat) (hm : Memory.wfFrom low m = true) :
    Memory.wfFrom low (m.eraseCell a) = true := by
  induction m generalizing low with
  | nil => rfl
  | cons c rest ih =>
    obtain ⟨b, w⟩ := c
    have hc := (Memory.wfFrom_cons low b w rest).mp hm
    unfold Memory.eraseCell
    split
    · exact Memory.wfFrom_mono (by omega) (ih hc.2.2.2)
    · exact (Memory.wfFrom_cons ..).mpr ⟨hc.1, hc.2.1, hc.2.2.1, ih hc.2.2.2⟩

/-- A write inside the address space keeps the canonical form. -/
theorem Memory.wf_writeByte {m : Memory} {a : Nat} (x : Byte) (ha : a < Config.memSize) (hm : m.wf = true) :
    (m.writeByte a x).wf = true := by
  unfold Memory.writeByte
  split
  · exact Memory.wfFrom_eraseCell a hm
  · exact Memory.wfFrom_insertCell (Nat.zero_le a) ha ‹_› hm

/-- A block write inside the address space keeps the canonical form. -/
theorem Memory.wf_writeBytes {m : Memory} {a : Nat} {xs : List Byte} (ha : a + xs.length ≤ Config.memSize)
    (hm : m.wf = true) : (m.writeBytes a xs).wf = true := by
  induction xs generalizing m a with
  | nil => exact hm
  | cons x xs ih =>
    rw [List.length_cons] at ha
    exact ih (by omega) (Memory.wf_writeByte x (by omega) hm)

/-- Reset memory is in canonical form. -/
theorem Memory.wf_reset : State.reset.mem.wf = true := rfl

end Sys2Proof.Machine
end

