-- ==== Sys2Proof/Laws/State.lean ====
section
/-! SUPPORT. The small lemmas of the state's updates: one per field per update, and what the accessors read after an update, so
that no later proof unfolds a record update. The composed updates come down to the primitive ones. -/

namespace Sys2Proof.Machine

variable (s : State)

/-! ### The composed updates -/

@[simp] theorem State.advance_eq (n : Word) : s.advance n = s.setPc (s.pc + n) := rfl

@[simp] theorem State.skipIf_eq (taken : Bool) : s.skipIf taken = s.setPc (s.pc + if taken then 4 else 2) := by
  cases taken <;> rfl

@[simp] theorem State.setFlag_eq (f : Bool) : s.setFlag f = s.setV vf (if f then 1 else 0) := rfl

@[simp] theorem State.setResultAndFlag_eq (x : Reg) (r : Byte) (f : Bool) :
    s.setResultAndFlag x r f = (s.setV x r).setV vf (if f then 1 else 0) := rfl

@[simp] theorem State.reportUnknown_eq (w : Word) : s.reportUnknown w = s.answer (.unknownOpcode w) := rfl

@[simp] theorem State.advanceIndex_eq (x : Reg) :
    s.advanceIndex x = s.setIndex (if indexAdvance then BitVec.ofNat 16 (s.index.toNat + x.val + 1) else s.index) := rfl

/-! ### setV -/

@[simp] theorem State.setV_v (x : Reg) (b : Byte) : (s.setV x b).v = s.v.set x b := rfl
@[simp] theorem State.setV_index (x : Reg) (b : Byte) : (s.setV x b).index = s.index := rfl
@[simp] theorem State.setV_pc (x : Reg) (b : Byte) : (s.setV x b).pc = s.pc := rfl
@[simp] theorem State.setV_sp (x : Reg) (b : Byte) : (s.setV x b).sp = s.sp := rfl
@[simp] theorem State.setV_stack (x : Reg) (b : Byte) : (s.setV x b).stack = s.stack := rfl
@[simp] theorem State.setV_dt (x : Reg) (b : Byte) : (s.setV x b).dt = s.dt := rfl
@[simp] theorem State.setV_st (x : Reg) (b : Byte) : (s.setV x b).st = s.st := rfl
@[simp] theorem State.setV_fb (x : Reg) (b : Byte) : (s.setV x b).fb = s.fb := rfl
@[simp] theorem State.setV_keys (x : Reg) (b : Byte) : (s.setV x b).keys = s.keys := rfl
@[simp] theorem State.setV_redraw (x : Reg) (b : Byte) : (s.setV x b).redraw = s.redraw := rfl
@[simp] theorem State.setV_run (x : Reg) (b : Byte) : (s.setV x b).run = s.run := rfl
@[simp] theorem State.setV_fault (x : Reg) (b : Byte) : (s.setV x b).fault = s.fault := rfl
@[simp] theorem State.setV_rng (x : Reg) (b : Byte) : (s.setV x b).rng = s.rng := rfl
@[simp] theorem State.setV_mem (x : Reg) (b : Byte) : (s.setV x b).mem = s.mem := rfl
@[simp] theorem State.setV_status (x : Reg) (b : Byte) : (s.setV x b).status = s.status := rfl
@[simp] theorem State.setV_readByte (x : Reg) (b : Byte) (k : Nat) : (s.setV x b).readByte k = s.readByte k := rfl
@[simp] theorem State.setV_pixel (x : Reg) (b : Byte) (p : Column) (q : Row) : (s.setV x b).pixel p q = s.pixel p q := rfl

/-! ### setIndex -/

@[simp] theorem State.setIndex_v (a : Word) : (s.setIndex a).v = s.v := rfl
@[simp] theorem State.setIndex_index (a : Word) : (s.setIndex a).index = a := rfl
@[simp] theorem State.setIndex_pc (a : Word) : (s.setIndex a).pc = s.pc := rfl
@[simp] theorem State.setIndex_sp (a : Word) : (s.setIndex a).sp = s.sp := rfl
@[simp] theorem State.setIndex_stack (a : Word) : (s.setIndex a).stack = s.stack := rfl
@[simp] theorem State.setIndex_dt (a : Word) : (s.setIndex a).dt = s.dt := rfl
@[simp] theorem State.setIndex_st (a : Word) : (s.setIndex a).st = s.st := rfl
@[simp] theorem State.setIndex_fb (a : Word) : (s.setIndex a).fb = s.fb := rfl
@[simp] theorem State.setIndex_keys (a : Word) : (s.setIndex a).keys = s.keys := rfl
@[simp] theorem State.setIndex_redraw (a : Word) : (s.setIndex a).redraw = s.redraw := rfl
@[simp] theorem State.setIndex_run (a : Word) : (s.setIndex a).run = s.run := rfl
@[simp] theorem State.setIndex_fault (a : Word) : (s.setIndex a).fault = s.fault := rfl
@[simp] theorem State.setIndex_rng (a : Word) : (s.setIndex a).rng = s.rng := rfl
@[simp] theorem State.setIndex_mem (a : Word) : (s.setIndex a).mem = s.mem := rfl
@[simp] theorem State.setIndex_status (a : Word) : (s.setIndex a).status = s.status := rfl
@[simp] theorem State.setIndex_getV (a : Word) (k : Reg) : (s.setIndex a).getV k = s.getV k := rfl
@[simp] theorem State.setIndex_readByte (a : Word) (k : Nat) : (s.setIndex a).readByte k = s.readByte k := rfl
@[simp] theorem State.setIndex_pixel (a : Word) (p : Column) (q : Row) : (s.setIndex a).pixel p q = s.pixel p q := rfl

/-! ### setPc -/

@[simp] theorem State.setPc_v (a : Word) : (s.setPc a).v = s.v := rfl
@[simp] theorem State.setPc_index (a : Word) : (s.setPc a).index = s.index := rfl
@[simp] theorem State.setPc_pc (a : Word) : (s.setPc a).pc = a := rfl
@[simp] theorem State.setPc_sp (a : Word) : (s.setPc a).sp = s.sp := rfl
@[simp] theorem State.setPc_stack (a : Word) : (s.setPc a).stack = s.stack := rfl
@[simp] theorem State.setPc_dt (a : Word) : (s.setPc a).dt = s.dt := rfl
@[simp] theorem State.setPc_st (a : Word) : (s.setPc a).st = s.st := rfl
@[simp] theorem State.setPc_fb (a : Word) : (s.setPc a).fb = s.fb := rfl
@[simp] theorem State.setPc_keys (a : Word) : (s.setPc a).keys = s.keys := rfl
@[simp] theorem State.setPc_redraw (a : Word) : (s.setPc a).redraw = s.redraw := rfl
@[simp] theorem State.setPc_run (a : Word) : (s.setPc a).run = s.run := rfl
@[simp] theorem State.setPc_fault (a : Word) : (s.setPc a).fault = s.fault := rfl
@[simp] theorem State.setPc_rng (a : Word) : (s.setPc a).rng = s.rng := rfl
@[simp] theorem State.setPc_mem (a : Word) : (s.setPc a).mem = s.mem := rfl
@[simp] theorem State.setPc_status (a : Word) : (s.setPc a).status = s.status := rfl
@[simp] theorem State.setPc_getV (a : Word) (k : Reg) : (s.setPc a).getV k = s.getV k := rfl
@[simp] theorem State.setPc_readByte (a : Word) (k : Nat) : (s.setPc a).readByte k = s.readByte k := rfl
@[simp] theorem State.setPc_pixel (a : Word) (p : Column) (q : Row) : (s.setPc a).pixel p q = s.pixel p q := rfl

/-! ### push -/

@[simp] theorem State.push_v (room : s.sp.val < 16) (a : Word) : (s.push room a).v = s.v := rfl
@[simp] theorem State.push_index (room : s.sp.val < 16) (a : Word) : (s.push room a).index = s.index := rfl
@[simp] theorem State.push_pc (room : s.sp.val < 16) (a : Word) : (s.push room a).pc = s.pc := rfl
@[simp] theorem State.push_sp (room : s.sp.val < 16) (a : Word) : (s.push room a).sp = ⟨s.sp.val + 1, by omega⟩ := rfl
@[simp] theorem State.push_stack (room : s.sp.val < 16) (a : Word) :
    (s.push room a).stack = s.stack.set s.sp.val a := rfl
@[simp] theorem State.push_dt (room : s.sp.val < 16) (a : Word) : (s.push room a).dt = s.dt := rfl
@[simp] theorem State.push_st (room : s.sp.val < 16) (a : Word) : (s.push room a).st = s.st := rfl
@[simp] theorem State.push_fb (room : s.sp.val < 16) (a : Word) : (s.push room a).fb = s.fb := rfl
@[simp] theorem State.push_keys (room : s.sp.val < 16) (a : Word) : (s.push room a).keys = s.keys := rfl
@[simp] theorem State.push_redraw (room : s.sp.val < 16) (a : Word) : (s.push room a).redraw = s.redraw := rfl
@[simp] theorem State.push_run (room : s.sp.val < 16) (a : Word) : (s.push room a).run = s.run := rfl
@[simp] theorem State.push_fault (room : s.sp.val < 16) (a : Word) : (s.push room a).fault = s.fault := rfl
@[simp] theorem State.push_rng (room : s.sp.val < 16) (a : Word) : (s.push room a).rng = s.rng := rfl
@[simp] theorem State.push_mem (room : s.sp.val < 16) (a : Word) : (s.push room a).mem = s.mem := rfl
@[simp] theorem State.push_status (room : s.sp.val < 16) (a : Word) : (s.push room a).status = s.status := rfl
@[simp] theorem State.push_getV (room : s.sp.val < 16) (a : Word) (k : Reg) : (s.push room a).getV k = s.getV k := rfl
@[simp] theorem State.push_readByte (room : s.sp.val < 16) (a : Word) (k : Nat) : (s.push room a).readByte k = s.readByte k := rfl
@[simp] theorem State.push_pixel (room : s.sp.val < 16) (a : Word) (p : Column) (q : Row) : (s.push room a).pixel p q = s.pixel p q := rfl

/-! ### pop -/

@[simp] theorem State.pop_v (used : 0 < s.sp.val) : (s.pop used).v = s.v := rfl
@[simp] theorem State.pop_index (used : 0 < s.sp.val) : (s.pop used).index = s.index := rfl
@[simp] theorem State.pop_pc (used : 0 < s.sp.val) : (s.pop used).pc = s.pc := rfl
@[simp] theorem State.pop_sp (used : 0 < s.sp.val) : (s.pop used).sp = ⟨s.sp.val - 1, by omega⟩ := rfl
@[simp] theorem State.pop_stack (used : 0 < s.sp.val) : (s.pop used).stack = s.stack := rfl
@[simp] theorem State.pop_dt (used : 0 < s.sp.val) : (s.pop used).dt = s.dt := rfl
@[simp] theorem State.pop_st (used : 0 < s.sp.val) : (s.pop used).st = s.st := rfl
@[simp] theorem State.pop_fb (used : 0 < s.sp.val) : (s.pop used).fb = s.fb := rfl
@[simp] theorem State.pop_keys (used : 0 < s.sp.val) : (s.pop used).keys = s.keys := rfl
@[simp] theorem State.pop_redraw (used : 0 < s.sp.val) : (s.pop used).redraw = s.redraw := rfl
@[simp] theorem State.pop_run (used : 0 < s.sp.val) : (s.pop used).run = s.run := rfl
@[simp] theorem State.pop_fault (used : 0 < s.sp.val) : (s.pop used).fault = s.fault := rfl
@[simp] theorem State.pop_rng (used : 0 < s.sp.val) : (s.pop used).rng = s.rng := rfl
@[simp] theorem State.pop_mem (used : 0 < s.sp.val) : (s.pop used).mem = s.mem := rfl
@[simp] theorem State.pop_status (used : 0 < s.sp.val) : (s.pop used).status = s.status := rfl
@[simp] theorem State.pop_getV (used : 0 < s.sp.val) (k : Reg) : (s.pop used).getV k = s.getV k := rfl
@[simp] theorem State.pop_readByte (used : 0 < s.sp.val) (k : Nat) : (s.pop used).readByte k = s.readByte k := rfl
@[simp] theorem State.pop_pixel (used : 0 < s.sp.val) (p : Column) (q : Row) : (s.pop used).pixel p q = s.pixel p q := rfl

/-! ### storeBytes -/

@[simp] theorem State.storeBytes_v (a : Nat) (xs : List Byte) : (s.storeBytes a xs).v = s.v := rfl
@[simp] theorem State.storeBytes_index (a : Nat) (xs : List Byte) : (s.storeBytes a xs).index = s.index := rfl
@[simp] theorem State.storeBytes_pc (a : Nat) (xs : List Byte) : (s.storeBytes a xs).pc = s.pc := rfl
@[simp] theorem State.storeBytes_sp (a : Nat) (xs : List Byte) : (s.storeBytes a xs).sp = s.sp := rfl
@[simp] theorem State.storeBytes_stack (a : Nat) (xs : List Byte) : (s.storeBytes a xs).stack = s.stack := rfl
@[simp] theorem State.storeBytes_dt (a : Nat) (xs : List Byte) : (s.storeBytes a xs).dt = s.dt := rfl
@[simp] theorem State.storeBytes_st (a : Nat) (xs : List Byte) : (s.storeBytes a xs).st = s.st := rfl
@[simp] theorem State.storeBytes_fb (a : Nat) (xs : List Byte) : (s.storeBytes a xs).fb = s.fb := rfl
@[simp] theorem State.storeBytes_keys (a : Nat) (xs : List Byte) : (s.storeBytes a xs).keys = s.keys := rfl
@[simp] theorem State.storeBytes_redraw (a : Nat) (xs : List Byte) : (s.storeBytes a xs).redraw = s.redraw := rfl
@[simp] theorem State.storeBytes_run (a : Nat) (xs : List Byte) : (s.storeBytes a xs).run = s.run := rfl
@[simp] theorem State.storeBytes_fault (a : Nat) (xs : List Byte) : (s.storeBytes a xs).fault = s.fault := rfl
@[simp] theorem State.storeBytes_rng (a : Nat) (xs : List Byte) : (s.storeBytes a xs).rng = s.rng := rfl
@[simp] theorem State.storeBytes_mem (a : Nat) (xs : List Byte) : (s.storeBytes a xs).mem = s.mem.writeBytes a xs := rfl
@[simp] theorem State.storeBytes_status (a : Nat) (xs : List Byte) : (s.storeBytes a xs).status = s.status := rfl
@[simp] theorem State.storeBytes_getV (a : Nat) (xs : List Byte) (k : Reg) : (s.storeBytes a xs).getV k = s.getV k := rfl
@[simp] theorem State.storeBytes_pixel (a : Nat) (xs : List Byte) (p : Column) (q : Row) : (s.storeBytes a xs).pixel p q = s.pixel p q := rfl

/-! ### setFb -/

@[simp] theorem State.setFb_v (fb : Framebuffer) : (s.setFb fb).v = s.v := rfl
@[simp] theorem State.setFb_index (fb : Framebuffer) : (s.setFb fb).index = s.index := rfl
@[simp] theorem State.setFb_pc (fb : Framebuffer) : (s.setFb fb).pc = s.pc := rfl
@[simp] theorem State.setFb_sp (fb : Framebuffer) : (s.setFb fb).sp = s.sp := rfl
@[simp] theorem State.setFb_stack (fb : Framebuffer) : (s.setFb fb).stack = s.stack := rfl
@[simp] theorem State.setFb_dt (fb : Framebuffer) : (s.setFb fb).dt = s.dt := rfl
@[simp] theorem State.setFb_st (fb : Framebuffer) : (s.setFb fb).st = s.st := rfl
@[simp] theorem State.setFb_fb (fb : Framebuffer) : (s.setFb fb).fb = fb := rfl
@[simp] theorem State.setFb_keys (fb : Framebuffer) : (s.setFb fb).keys = s.keys := rfl
@[simp] theorem State.setFb_redraw (fb : Framebuffer) : (s.setFb fb).redraw = s.redraw := rfl
@[simp] theorem State.setFb_run (fb : Framebuffer) : (s.setFb fb).run = s.run := rfl
@[simp] theorem State.setFb_fault (fb : Framebuffer) : (s.setFb fb).fault = s.fault := rfl
@[simp] theorem State.setFb_rng (fb : Framebuffer) : (s.setFb fb).rng = s.rng := rfl
@[simp] theorem State.setFb_mem (fb : Framebuffer) : (s.setFb fb).mem = s.mem := rfl
@[simp] theorem State.setFb_status (fb : Framebuffer) : (s.setFb fb).status = s.status := rfl
@[simp] theorem State.setFb_getV (fb : Framebuffer) (k : Reg) : (s.setFb fb).getV k = s.getV k := rfl
@[simp] theorem State.setFb_readByte (fb : Framebuffer) (k : Nat) : (s.setFb fb).readByte k = s.readByte k := rfl

/-! ### requestRedraw -/

@[simp] theorem State.requestRedraw_v : (s.requestRedraw).v = s.v := rfl
@[simp] theorem State.requestRedraw_index : (s.requestRedraw).index = s.index := rfl
@[simp] theorem State.requestRedraw_pc : (s.requestRedraw).pc = s.pc := rfl
@[simp] theorem State.requestRedraw_sp : (s.requestRedraw).sp = s.sp := rfl
@[simp] theorem State.requestRedraw_stack : (s.requestRedraw).stack = s.stack := rfl
@[simp] theorem State.requestRedraw_dt : (s.requestRedraw).dt = s.dt := rfl
@[simp] theorem State.requestRedraw_st : (s.requestRedraw).st = s.st := rfl
@[simp] theorem State.requestRedraw_fb : (s.requestRedraw).fb = s.fb := rfl
@[simp] theorem State.requestRedraw_keys : (s.requestRedraw).keys = s.keys := rfl
@[simp] theorem State.requestRedraw_redraw : (s.requestRedraw).redraw = true := rfl
@[simp] theorem State.requestRedraw_run : (s.requestRedraw).run = s.run := rfl
@[simp] theorem State.requestRedraw_fault : (s.requestRedraw).fault = s.fault := rfl
@[simp] theorem State.requestRedraw_rng : (s.requestRedraw).rng = s.rng := rfl
@[simp] theorem State.requestRedraw_mem : (s.requestRedraw).mem = s.mem := rfl
@[simp] theorem State.requestRedraw_status : (s.requestRedraw).status = s.status := rfl
@[simp] theorem State.requestRedraw_getV (k : Reg) : (s.requestRedraw).getV k = s.getV k := rfl
@[simp] theorem State.requestRedraw_readByte (k : Nat) : (s.requestRedraw).readByte k = s.readByte k := rfl
@[simp] theorem State.requestRedraw_pixel (p : Column) (q : Row) : (s.requestRedraw).pixel p q = s.pixel p q := rfl

/-! ### timerUpdate -/

@[simp] theorem State.timerUpdate_v : (s.timerUpdate).v = s.v := rfl
@[simp] theorem State.timerUpdate_index : (s.timerUpdate).index = s.index := rfl
@[simp] theorem State.timerUpdate_pc : (s.timerUpdate).pc = s.pc := rfl
@[simp] theorem State.timerUpdate_sp : (s.timerUpdate).sp = s.sp := rfl
@[simp] theorem State.timerUpdate_stack : (s.timerUpdate).stack = s.stack := rfl
@[simp] theorem State.timerUpdate_dt : (s.timerUpdate).dt = countdown s.dt := rfl
@[simp] theorem State.timerUpdate_st : (s.timerUpdate).st = countdown s.st := rfl
@[simp] theorem State.timerUpdate_fb : (s.timerUpdate).fb = s.fb := rfl
@[simp] theorem State.timerUpdate_keys : (s.timerUpdate).keys = s.keys := rfl
@[simp] theorem State.timerUpdate_redraw : (s.timerUpdate).redraw = s.redraw := rfl
@[simp] theorem State.timerUpdate_run : (s.timerUpdate).run = s.run := rfl
@[simp] theorem State.timerUpdate_fault : (s.timerUpdate).fault = s.fault := rfl
@[simp] theorem State.timerUpdate_rng : (s.timerUpdate).rng = s.rng := rfl
@[simp] theorem State.timerUpdate_mem : (s.timerUpdate).mem = s.mem := rfl
@[simp] theorem State.timerUpdate_status : (s.timerUpdate).status = s.status := rfl
@[simp] theorem State.timerUpdate_getV (k : Reg) : (s.timerUpdate).getV k = s.getV k := rfl
@[simp] theorem State.timerUpdate_readByte (k : Nat) : (s.timerUpdate).readByte k = s.readByte k := rfl
@[simp] theorem State.timerUpdate_pixel (p : Column) (q : Row) : (s.timerUpdate).pixel p q = s.pixel p q := rfl

/-! ### setDt -/

@[simp] theorem State.setDt_v (b : Byte) : (s.setDt b).v = s.v := rfl
@[simp] theorem State.setDt_index (b : Byte) : (s.setDt b).index = s.index := rfl
@[simp] theorem State.setDt_pc (b : Byte) : (s.setDt b).pc = s.pc := rfl
@[simp] theorem State.setDt_sp (b : Byte) : (s.setDt b).sp = s.sp := rfl
@[simp] theorem State.setDt_stack (b : Byte) : (s.setDt b).stack = s.stack := rfl
@[simp] theorem State.setDt_dt (b : Byte) : (s.setDt b).dt = b := rfl
@[simp] theorem State.setDt_st (b : Byte) : (s.setDt b).st = s.st := rfl
@[simp] theorem State.setDt_fb (b : Byte) : (s.setDt b).fb = s.fb := rfl
@[simp] theorem State.setDt_keys (b : Byte) : (s.setDt b).keys = s.keys := rfl
@[simp] theorem State.setDt_redraw (b : Byte) : (s.setDt b).redraw = s.redraw := rfl
@[simp] theorem State.setDt_run (b : Byte) : (s.setDt b).run = s.run := rfl
@[simp] theorem State.setDt_fault (b : Byte) : (s.setDt b).fault = s.fault := rfl
@[simp] theorem State.setDt_rng (b : Byte) : (s.setDt b).rng = s.rng := rfl
@[simp] theorem State.setDt_mem (b : Byte) : (s.setDt b).mem = s.mem := rfl
@[simp] theorem State.setDt_status (b : Byte) : (s.setDt b).status = s.status := rfl
@[simp] theorem State.setDt_getV (b : Byte) (k : Reg) : (s.setDt b).getV k = s.getV k := rfl
@[simp] theorem State.setDt_readByte (b : Byte) (k : Nat) : (s.setDt b).readByte k = s.readByte k := rfl
@[simp] theorem State.setDt_pixel (b : Byte) (p : Column) (q : Row) : (s.setDt b).pixel p q = s.pixel p q := rfl

/-! ### setSt -/

@[simp] theorem State.setSt_v (b : Byte) : (s.setSt b).v = s.v := rfl
@[simp] theorem State.setSt_index (b : Byte) : (s.setSt b).index = s.index := rfl
@[simp] theorem State.setSt_pc (b : Byte) : (s.setSt b).pc = s.pc := rfl
@[simp] theorem State.setSt_sp (b : Byte) : (s.setSt b).sp = s.sp := rfl
@[simp] theorem State.setSt_stack (b : Byte) : (s.setSt b).stack = s.stack := rfl
@[simp] theorem State.setSt_dt (b : Byte) : (s.setSt b).dt = s.dt := rfl
@[simp] theorem State.setSt_st (b : Byte) : (s.setSt b).st = b := rfl
@[simp] theorem State.setSt_fb (b : Byte) : (s.setSt b).fb = s.fb := rfl
@[simp] theorem State.setSt_keys (b : Byte) : (s.setSt b).keys = s.keys := rfl
@[simp] theorem State.setSt_redraw (b : Byte) : (s.setSt b).redraw = s.redraw := rfl
@[simp] theorem State.setSt_run (b : Byte) : (s.setSt b).run = s.run := rfl
@[simp] theorem State.setSt_fault (b : Byte) : (s.setSt b).fault = s.fault := rfl
@[simp] theorem State.setSt_rng (b : Byte) : (s.setSt b).rng = s.rng := rfl
@[simp] theorem State.setSt_mem (b : Byte) : (s.setSt b).mem = s.mem := rfl
@[simp] theorem State.setSt_status (b : Byte) : (s.setSt b).status = s.status := rfl
@[simp] theorem State.setSt_getV (b : Byte) (k : Reg) : (s.setSt b).getV k = s.getV k := rfl
@[simp] theorem State.setSt_readByte (b : Byte) (k : Nat) : (s.setSt b).readByte k = s.readByte k := rfl
@[simp] theorem State.setSt_pixel (b : Byte) (p : Column) (q : Row) : (s.setSt b).pixel p q = s.pixel p q := rfl

/-! ### advanceRng -/

@[simp] theorem State.advanceRng_v : (s.advanceRng).v = s.v := rfl
@[simp] theorem State.advanceRng_index : (s.advanceRng).index = s.index := rfl
@[simp] theorem State.advanceRng_pc : (s.advanceRng).pc = s.pc := rfl
@[simp] theorem State.advanceRng_sp : (s.advanceRng).sp = s.sp := rfl
@[simp] theorem State.advanceRng_stack : (s.advanceRng).stack = s.stack := rfl
@[simp] theorem State.advanceRng_dt : (s.advanceRng).dt = s.dt := rfl
@[simp] theorem State.advanceRng_st : (s.advanceRng).st = s.st := rfl
@[simp] theorem State.advanceRng_fb : (s.advanceRng).fb = s.fb := rfl
@[simp] theorem State.advanceRng_keys : (s.advanceRng).keys = s.keys := rfl
@[simp] theorem State.advanceRng_redraw : (s.advanceRng).redraw = s.redraw := rfl
@[simp] theorem State.advanceRng_run : (s.advanceRng).run = s.run := rfl
@[simp] theorem State.advanceRng_fault : (s.advanceRng).fault = s.fault := rfl
@[simp] theorem State.advanceRng_rng : (s.advanceRng).rng = (rngNext s.rng).2 := rfl
@[simp] theorem State.advanceRng_mem : (s.advanceRng).mem = s.mem := rfl
@[simp] theorem State.advanceRng_status : (s.advanceRng).status = s.status := rfl
@[simp] theorem State.advanceRng_getV (k : Reg) : (s.advanceRng).getV k = s.getV k := rfl
@[simp] theorem State.advanceRng_readByte (k : Nat) : (s.advanceRng).readByte k = s.readByte k := rfl
@[simp] theorem State.advanceRng_pixel (p : Column) (q : Row) : (s.advanceRng).pixel p q = s.pixel p q := rfl

/-! ### answer -/

@[simp] theorem State.answer_v (a : Status) : (s.answer a).v = s.v := rfl
@[simp] theorem State.answer_index (a : Status) : (s.answer a).index = s.index := rfl
@[simp] theorem State.answer_pc (a : Status) : (s.answer a).pc = s.pc := rfl
@[simp] theorem State.answer_sp (a : Status) : (s.answer a).sp = s.sp := rfl
@[simp] theorem State.answer_stack (a : Status) : (s.answer a).stack = s.stack := rfl
@[simp] theorem State.answer_dt (a : Status) : (s.answer a).dt = s.dt := rfl
@[simp] theorem State.answer_st (a : Status) : (s.answer a).st = s.st := rfl
@[simp] theorem State.answer_fb (a : Status) : (s.answer a).fb = s.fb := rfl
@[simp] theorem State.answer_keys (a : Status) : (s.answer a).keys = s.keys := rfl
@[simp] theorem State.answer_redraw (a : Status) : (s.answer a).redraw = s.redraw := rfl
@[simp] theorem State.answer_run (a : Status) : (s.answer a).run = s.run := rfl
@[simp] theorem State.answer_fault (a : Status) : (s.answer a).fault = s.fault := rfl
@[simp] theorem State.answer_rng (a : Status) : (s.answer a).rng = s.rng := rfl
@[simp] theorem State.answer_mem (a : Status) : (s.answer a).mem = s.mem := rfl
@[simp] theorem State.answer_status (a : Status) : (s.answer a).status = a := rfl
@[simp] theorem State.answer_getV (a : Status) (k : Reg) : (s.answer a).getV k = s.getV k := rfl
@[simp] theorem State.answer_readByte (a : Status) (k : Nat) : (s.answer a).readByte k = s.readByte k := rfl
@[simp] theorem State.answer_pixel (a : Status) (p : Column) (q : Row) : (s.answer a).pixel p q = s.pixel p q := rfl

/-! ### raiseFatal -/

@[simp] theorem State.raiseFatal_v (code : FatalCode) : (s.raiseFatal code).v = s.v := rfl
@[simp] theorem State.raiseFatal_index (code : FatalCode) : (s.raiseFatal code).index = s.index := rfl
@[simp] theorem State.raiseFatal_pc (code : FatalCode) : (s.raiseFatal code).pc = s.pc := rfl
@[simp] theorem State.raiseFatal_sp (code : FatalCode) : (s.raiseFatal code).sp = s.sp := rfl
@[simp] theorem State.raiseFatal_stack (code : FatalCode) : (s.raiseFatal code).stack = s.stack := rfl
@[simp] theorem State.raiseFatal_dt (code : FatalCode) : (s.raiseFatal code).dt = s.dt := rfl
@[simp] theorem State.raiseFatal_st (code : FatalCode) : (s.raiseFatal code).st = s.st := rfl
@[simp] theorem State.raiseFatal_fb (code : FatalCode) : (s.raiseFatal code).fb = s.fb := rfl
@[simp] theorem State.raiseFatal_keys (code : FatalCode) : (s.raiseFatal code).keys = s.keys := rfl
@[simp] theorem State.raiseFatal_redraw (code : FatalCode) : (s.raiseFatal code).redraw = s.redraw := rfl
@[simp] theorem State.raiseFatal_run (code : FatalCode) : (s.raiseFatal code).run = .halted := rfl
@[simp] theorem State.raiseFatal_fault (code : FatalCode) : (s.raiseFatal code).fault = code := rfl
@[simp] theorem State.raiseFatal_rng (code : FatalCode) : (s.raiseFatal code).rng = s.rng := rfl
@[simp] theorem State.raiseFatal_mem (code : FatalCode) : (s.raiseFatal code).mem = s.mem := rfl
@[simp] theorem State.raiseFatal_status (code : FatalCode) : (s.raiseFatal code).status = .fatal code := rfl
@[simp] theorem State.raiseFatal_getV (code : FatalCode) (k : Reg) : (s.raiseFatal code).getV k = s.getV k := rfl
@[simp] theorem State.raiseFatal_readByte (code : FatalCode) (k : Nat) : (s.raiseFatal code).readByte k = s.readByte k := rfl
@[simp] theorem State.raiseFatal_pixel (code : FatalCode) (p : Column) (q : Row) : (s.raiseFatal code).pixel p q = s.pixel p q := rfl

/-! ### loadLowRegs -/

@[simp] theorem State.loadLowRegs_v (x : Reg) (a : Nat) :
    (s.loadLowRegs x a).v = Vector.ofFn fun k : Reg => if k ≤ x then s.readByte (a + k.val) else s.getV k := rfl
@[simp] theorem State.loadLowRegs_index (x : Reg) (a : Nat) : (s.loadLowRegs x a).index = s.index := rfl
@[simp] theorem State.loadLowRegs_pc (x : Reg) (a : Nat) : (s.loadLowRegs x a).pc = s.pc := rfl
@[simp] theorem State.loadLowRegs_sp (x : Reg) (a : Nat) : (s.loadLowRegs x a).sp = s.sp := rfl
@[simp] theorem State.loadLowRegs_stack (x : Reg) (a : Nat) : (s.loadLowRegs x a).stack = s.stack := rfl
@[simp] theorem State.loadLowRegs_dt (x : Reg) (a : Nat) : (s.loadLowRegs x a).dt = s.dt := rfl
@[simp] theorem State.loadLowRegs_st (x : Reg) (a : Nat) : (s.loadLowRegs x a).st = s.st := rfl
@[simp] theorem State.loadLowRegs_fb (x : Reg) (a : Nat) : (s.loadLowRegs x a).fb = s.fb := rfl
@[simp] theorem State.loadLowRegs_keys (x : Reg) (a : Nat) : (s.loadLowRegs x a).keys = s.keys := rfl
@[simp] theorem State.loadLowRegs_redraw (x : Reg) (a : Nat) : (s.loadLowRegs x a).redraw = s.redraw := rfl
@[simp] theorem State.loadLowRegs_run (x : Reg) (a : Nat) : (s.loadLowRegs x a).run = s.run := rfl
@[simp] theorem State.loadLowRegs_fault (x : Reg) (a : Nat) : (s.loadLowRegs x a).fault = s.fault := rfl
@[simp] theorem State.loadLowRegs_rng (x : Reg) (a : Nat) : (s.loadLowRegs x a).rng = s.rng := rfl
@[simp] theorem State.loadLowRegs_mem (x : Reg) (a : Nat) : (s.loadLowRegs x a).mem = s.mem := rfl
@[simp] theorem State.loadLowRegs_status (x : Reg) (a : Nat) : (s.loadLowRegs x a).status = s.status := rfl
@[simp] theorem State.loadLowRegs_readByte (x : Reg) (a : Nat) (k : Nat) : (s.loadLowRegs x a).readByte k = s.readByte k := rfl
@[simp] theorem State.loadLowRegs_pixel (x : Reg) (a : Nat) (p : Column) (q : Row) : (s.loadLowRegs x a).pixel p q = s.pixel p q := rfl

/-! ### Reading what was written -/

@[simp] theorem State.getV_setV_same (x : Reg) (b : Byte) : (s.setV x b).getV x = b := by
  simp [State.getV]

theorem State.getV_setV_ne {x k : Reg} (b : Byte) (h : k ≠ x) : (s.setV x b).getV k = s.getV k := by
  have hv : x.val ≠ k.val := fun e => h (Fin.ext e.symm)
  simp [State.getV, Vector.getElem_set_ne, hv]

theorem State.getV_setV (x k : Reg) (b : Byte) : (s.setV x b).getV k = if k = x then b else s.getV k := by
  by_cases h : k = x
  · subst h; simp
  · rw [if_neg h, State.getV_setV_ne s b h]

@[simp] theorem State.getV_loadLowRegs (x k : Reg) (a : Nat) :
    (s.loadLowRegs x a).getV k = if k ≤ x then s.readByte (a + k.val) else s.getV k := by
  simp [State.getV, State.loadLowRegs]

@[simp] theorem State.setFb_pixel (fb : Framebuffer) (x : Column) (y : Row) :
    (s.setFb fb).pixel x y = fb.pixel x y := rfl

@[simp] theorem Framebuffer.pixel_setPixel (fb : Framebuffer) (x p : Column) (y q : Row) (b : Bool) :
    (fb.setPixel x y b).pixel p q = if p = x ∧ q = y then b else fb.pixel p q := by
  unfold Framebuffer.pixel Framebuffer.setPixel
  by_cases hq : q = y
  · subst hq
    by_cases hp : p = x
    · subst hp; simp
    · have : x.val ≠ p.val := fun e => hp (Fin.ext e.symm)
      simp [hp, Vector.getElem_set_ne, this]
  · have : y.val ≠ q.val := fun e => hq (Fin.ext e.symm)
    simp [hq, Vector.getElem_set_ne, this]

@[simp] theorem blankFb_pixel (x : Column) (y : Row) : blankFb.pixel x y = false := by
  simp [Framebuffer.pixel, blankFb]

/-- Two states with equal fields are equal. -/
theorem State.ext_fields {s t : State} (hv : s.v = t.v) (hi : s.index = t.index) (hpc : s.pc = t.pc) (hsp : s.sp = t.sp)
    (hstack : s.stack = t.stack) (hdt : s.dt = t.dt) (hst : s.st = t.st) (hfb : s.fb = t.fb) (hkeys : s.keys = t.keys)
    (hredraw : s.redraw = t.redraw) (hrun : s.run = t.run) (hfault : s.fault = t.fault) (hrng : s.rng = t.rng)
    (hmem : s.mem = t.mem) (hstatus : s.status = t.status) : s = t := by
  cases s; cases t; simp_all

end Sys2Proof.Machine
end

