-- ==== Sys2Proof/Laws/Ops.lean ====
section
/-! SUPPORT. One lemma per shared operation of the machine, saying once everything it can do; later proofs cite these instead of
unfolding the operations. -/

namespace Sys2Proof.Machine

/-! ### Operands -/

@[simp] theorem blockInRange_iff (a n : Nat) : blockInRange a n = true ↔ n = 0 ∨ a + n ≤ 4096 := by
  simp only [blockInRange, Bool.or_eq_true, decide_eq_true_eq]; omega

theorem zext16_toNat (nnn : Addr) : (zext16 nnn).toNat = nnn.toNat := by
  have := nnn.isLt
  simp [zext16]; omega

theorem indexedTarget_toNat (nnn : Addr) (b : Byte) : (indexedTarget nnn b).toNat = nnn.toNat + b.toNat := by
  have := nnn.isLt; have := b.isLt
  simp only [indexedTarget, BitVec.toNat_add, zext16_toNat, BitVec.toNat_setWidth]; omega

theorem keyOf_some {b : Byte} (h : b.toNat < 16) : keyOf b = some ⟨b.toNat, h⟩ := by
  simp [keyOf, h]

theorem keyOf_none {b : Byte} (h : ¬b.toNat < 16) : keyOf b = none := by
  simp [keyOf, h]

/-- With no key pressed there is no least one. -/
theorem leastPressed_none {s : State} : s.leastPressed = none ↔ ∀ k, s.pressed k = false := by
  simp [State.leastPressed]

/-- The least pressed key is pressed, and no smaller one is. -/
theorem leastPressed_some {s : State} {k : Key} (h : s.leastPressed = some k) :
    s.pressed k = true ∧ ∀ j < k, s.pressed j = false := by
  obtain ⟨hk, as, bs, hsplit, hbefore⟩ := List.find?_eq_some_iff_append.mp h
  refine ⟨by simpa using hk, fun j hj => ?_⟩
  have hsorted : (List.finRange 16).Pairwise (· < ·) := List.pairwise_lt_finRange 16
  have hmem : j ∈ as ++ k :: bs := hsplit ▸ List.mem_finRange j
  rw [hsplit] at hsorted
  rcases List.mem_append.mp hmem with hj' | hj'
  · simpa using hbefore j hj'
  · rcases List.mem_cons.mp hj' with rfl | hj''
    · exact absurd hj (lt_irrefl _)
    · have := (List.pairwise_cons.mp (List.pairwise_append.mp hsorted).2.1).1 j hj''
      exact absurd hj (not_lt.mpr this.le)

@[simp] theorem lowRegs_length (s : State) (x : Reg) : (s.lowRegs x).length = x.val + 1 := by
  simp [State.lowRegs]

theorem lowRegs_getD (s : State) {x k : Reg} (h : k ≤ x) : (s.lowRegs x).getD k.val 0 = s.getV k := by
  have hk : k.val < (s.lowRegs x).length := by rw [lowRegs_length]; have : k.val ≤ x.val := h; omega
  rw [List.getD_eq_getElem _ _ hk]
  simp [State.lowRegs, State.getV]

@[simp] theorem bcdDigits_length (b : Byte) : (bcdDigits b).length = 3 := rfl

/-! ### The fatal entry -/

/-- What an instruction with one fault condition can do (R105). -/
theorem guarded_cases (ok : Bool) (code : FatalCode) (s done : State) :
    (ok = true ∧ guarded ok code s done = .next done) ∨
    (ok = false ∧ guarded ok code s done = .next (s.raiseFatal code)) := by
  cases ok <;> simp [guarded]

/-- What a key-state skip can do (R90, R91). -/
theorem skipOnKey_cases (x : Reg) (wanted : Bool) (s : State) :
    (∃ k : Key, k.val = (s.getV x).toNat ∧ skipOnKey x wanted s = .next (s.skipIf (s.pressed k == wanted))) ∨
    ((s.getV x).toNat > 0xF ∧ skipOnKey x wanted s = .next (s.raiseFatal .keyIndexOutOfRange)) := by
  by_cases h : (s.getV x).toNat < 16
  · exact .inl ⟨⟨_, h⟩, rfl, by simp [skipOnKey, keyOf_some h]⟩
  · exact .inr ⟨by omega, by simp [skipOnKey, keyOf_none h]⟩

/-! ### Drawing -/

/-- One pixel of a sprite (R89): the cell it falls on toggles when its bit is 1, and no other cell changes. -/
theorem drawPixel_pixel (cv : Canvas) (x p : Column) (y q : Row) (bit : Bool) :
    (drawPixel cv x y bit).1.pixel p q = (cv.1.pixel p q ^^ (bit && decide (p = x ∧ q = y))) := by
  cases bit
  · simp [drawPixel]
  · by_cases h : p = x ∧ q = y
    · obtain ⟨rfl, rfl⟩ := h; simp [drawPixel]
    · simp [drawPixel, h]

/-- One pixel of a sprite hits when its bit is 1 and its cell was set (R89). -/
theorem drawPixel_hit (cv : Canvas) (x : Column) (y : Row) (bit : Bool) :
    (drawPixel cv x y bit).2 = (cv.2 || (bit && cv.1.pixel x y)) := by
  cases bit <;> simp [drawPixel]

/-! ### The step's phases -/

theorem fetch_some {s : State} (h : s.pc.toNat ≤ 0xFFE) :
    s.fetch = some (wordOfBytes (s.readByte s.pc.toNat) (s.readByte (s.pc.toNat + 1))) := by
  rw [State.fetch, if_pos (by omega)]

theorem fetch_none {s : State} (h : 0xFFE < s.pc.toNat) : s.fetch = none := by
  rw [State.fetch, if_neg (by omega)]

theorem endOfStep_halted {t : State} (h : t.run = .halted) : t.endOfStep = t := by
  simp [State.endOfStep, h]

theorem endOfStep_other {t : State} (h : t.run ≠ .halted) : t.endOfStep = t.timerUpdate := by
  cases hr : t.run <;> simp_all [State.endOfStep]

@[simp] theorem endStep_next (t : State) : endStep (.next t) = .next t.endOfStep := rfl

theorem step_unloaded {s : State} (h : s.run = .unloaded) : step s = .next (s.answer .notRunning) := by
  simp [step, h, stepUnloaded]

theorem step_halted {s : State} (h : s.run = .halted) : step s = .next (s.answer (.fatal s.fault)) := by
  simp [step, h, stepHalted]

/-- What a step of a running core does (R54): the fetch is fatal, or the fetched word is executed and the step ends. -/
theorem step_running {s : State} (h : s.run = .running) :
    (0xFFE < s.pc.toNat ∧ step s = .next (s.raiseFatal .addressOutOfRange)) ∨
    (s.pc.toNat ≤ 0xFFE ∧
      step s = endStep (executeWord (wordOfBytes (s.readByte s.pc.toNat) (s.readByte (s.pc.toNat + 1)))
        (s.answer .ok))) := by
  by_cases hp : s.pc.toNat ≤ 0xFFE
  · exact .inr ⟨hp, by simp [step, h, runCycle, fetch_some hp]⟩
  · exact .inl ⟨by omega, by simp [step, h, runCycle, fetch_none (by omega : 0xFFE < s.pc.toNat)]⟩

/-! ### Runs of several steps -/

@[simp] theorem run_zero (s : State) : Host.Core.run Sys2Proof.core 0 s = .next s := rfl

/-- A run of one step more is the step and then the run. -/
theorem run_succ (n : Nat) {s t : State} (h : step s = .next t) :
    Host.Core.run Sys2Proof.core (n + 1) s = Host.Core.run Sys2Proof.core n t := by
  have hs : Sys2Proof.core.step s = .next t := h
  simp only [Host.Core.run, hs]

end Sys2Proof.Machine
end

