-- ==== Sys2Proof/Laws/Draw.lean ====
section
/-! SUPPORT. What the loops of DXYN do to the framebuffer and to the collision flag, said once (spec 44_draw.md R88, R89). -/

namespace Sys2Proof.Machine

/-- One pixel of a sprite as data: its cell and its bit. -/
abbrev Dot := Column × Row × Bool

/-- The dot of sprite column `c` in the row `r` whose byte is `b`. -/
def spriteDot (x0 y0 : Byte) (r : Nat) (b : Byte) (c : Nat) : Dot := (spriteColumn x0 c, spriteRow y0 r, spriteBit b c)

/-- All dots of a sprite, in the order of R89's loops. -/
def spriteDots (m : Memory) (a : Nat) (x0 y0 : Byte) (n : Nat) : List Dot :=
  (List.range n).flatMap fun r => (List.range 8).map (spriteDot x0 y0 r (m.readByte (a + r)))

/-- The dots drawn one after the other. -/
def drawDots (l : List Dot) (cv : Canvas) : Canvas := l.foldl (fun acc d => drawPixel acc d.1 d.2.1 d.2.2) cv

/-- The two nested loops of R89 draw the dots in order. -/
theorem drawRows_eq_drawDots (m : Memory) (a : Nat) (x0 y0 : Byte) (n : Nat) (cv : Canvas) :
    drawRows m a x0 y0 n cv = drawDots (spriteDots m a x0 y0 n) cv := by
  simp [drawRows, drawRow, drawDots, spriteDots, spriteDot, List.foldl_flatMap, List.foldl_map]

/-- No two dots stand on the same cell. -/
def Distinct (l : List Dot) : Prop := l.Pairwise fun d e => ¬(d.1 = e.1 ∧ d.2.1 = e.2.1)

/-- A list of dots has a 1 bit on the cell. -/
def Covers (l : List Dot) (p : Column) (q : Row) : Prop := (p, q, true) ∈ l

/-- Drawing distinct dots toggles exactly the cells they cover, and hits exactly when a covered cell was set. -/
theorem drawDots_spec {l : List Dot} (h : Distinct l) (cv : Canvas) :
    (∀ p q, Covers l p q → (drawDots l cv).1.pixel p q = !cv.1.pixel p q) ∧
    (∀ p q, ¬Covers l p q → (drawDots l cv).1.pixel p q = cv.1.pixel p q) ∧
    ((drawDots l cv).2 = true ↔ cv.2 = true ∨ ∃ p q, Covers l p q ∧ cv.1.pixel p q = true) := by
  induction l generalizing cv with
  | nil => simp [Covers, drawDots]
  | cons d l ih =>
    obtain ⟨x, y, bit⟩ := d
    obtain ⟨hd, hl⟩ := List.pairwise_cons.mp h
    obtain ⟨i1, i2, i3⟩ := ih hl (drawPixel cv x y bit)
    have hfree : ∀ p q, Covers l p q → ¬(p = x ∧ q = y) := fun p q hc e => hd _ hc ⟨e.1.symm, e.2.symm⟩
    have hpix : ∀ p q, ¬(p = x ∧ q = y) → (drawPixel cv x y bit).1.pixel p q = cv.1.pixel p q := by
      intro p q e; rw [drawPixel_pixel]; simp [e]
    have hcons : ∀ p q, Covers ((x, y, bit) :: l) p q ↔ (p = x ∧ q = y ∧ bit = true) ∨ Covers l p q := by
      intro p q; simp [Covers, eq_comm]
    refine ⟨fun p q hc => ?_, fun p q hc => ?_, ?_⟩
    · show (drawDots l (drawPixel cv x y bit)).1.pixel p q = _
      rcases (hcons p q).mp hc with ⟨rfl, rfl, rfl⟩ | hc
      · rw [i2 p q fun hc => hfree p q hc ⟨rfl, rfl⟩, drawPixel_pixel]; simp
      · rw [i1 p q hc, hpix p q (hfree p q hc)]
    · show (drawDots l (drawPixel cv x y bit)).1.pixel p q = _
      rw [hcons, not_or] at hc
      rw [i2 p q hc.2, drawPixel_pixel]
      cases bit
      · simp
      · have : ¬(p = x ∧ q = y) := fun e => hc.1 ⟨e.1, e.2, rfl⟩
        simp [this]
    · show (drawDots l (drawPixel cv x y bit)).2 = true ↔ _
      rw [i3, drawPixel_hit]
      constructor
      · rintro (hh | ⟨p, q, hc, hp⟩)
        · rcases Bool.or_eq_true_iff.mp hh with hh | hh
          · exact .inl hh
          · rw [Bool.and_eq_true] at hh
            exact .inr ⟨x, y, (hcons x y).mpr (.inl ⟨rfl, rfl, hh.1⟩), hh.2⟩
        · exact .inr ⟨p, q, (hcons p q).mpr (.inr hc), by rw [← hpix p q (hfree p q hc)]; exact hp⟩
      · rintro (hh | ⟨p, q, hc, hp⟩)
        · exact .inl (by simp [hh])
        · rcases (hcons p q).mp hc with ⟨rfl, rfl, rfl⟩ | hc
          · exact .inl (by simp [hp])
          · exact .inr ⟨p, q, hc, by rw [hpix p q (hfree p q hc)]; exact hp⟩

/-- The dots of a sprite of at most 32 rows stand on distinct cells (R88). -/
theorem spriteDots_distinct (m : Memory) (a : Nat) (x0 y0 : Byte) {n : Nat} (hn : n ≤ 32) :
    Distinct (spriteDots m a x0 y0 n) := by
  have hcol : ∀ c c' : Nat, c < 8 → c' < 8 → spriteColumn x0 c = spriteColumn x0 c' → c = c' := by
    intro c c' h h' e
    have := congrArg Fin.val e
    simp only [spriteColumn] at this; omega
  have hrow : ∀ r r' : Nat, r < 32 → r' < 32 → spriteRow y0 r = spriteRow y0 r' → r = r' := by
    intro r r' h h' e
    have := congrArg Fin.val e
    simp only [spriteRow] at this; omega
  unfold Distinct spriteDots
  rw [List.pairwise_flatMap]
  constructor
  · intro r _
    rw [List.pairwise_map]
    exact List.nodup_range.imp_of_mem fun hc hc' hne e =>
      hne (hcol _ _ (List.mem_range.mp hc) (List.mem_range.mp hc') e.1)
  · refine List.nodup_range.imp_of_mem fun {r r'} hr hr' hne => ?_
    intro d hd e he
    obtain ⟨c, -, rfl⟩ := List.mem_map.mp hd
    obtain ⟨c', -, rfl⟩ := List.mem_map.mp he
    have h1 := List.mem_range.mp hr
    have h2 := List.mem_range.mp hr'
    exact fun e => hne (hrow _ _ (by omega) (by omega) e.2)

/-- The cells a sprite's dots cover are those that have a 1 bit of the sprite on them (R88). -/
theorem covers_spriteDots (m : Memory) (a : Nat) (x0 y0 : Byte) (n : Nat) (p : Column) (q : Row) :
    Covers (spriteDots m a x0 y0 n) p q ↔
      ∃ r < n, ∃ c < 8, p.val = (x0.toNat + c) % 64 ∧ q.val = (y0.toNat + r) % 32 ∧
        (m.readByte (a + r)).getLsbD (7 - c) = true := by
  simp only [Covers, spriteDots, List.mem_flatMap, List.mem_map, List.mem_range, spriteDot, Prod.mk.injEq, spriteBit,
    Fin.ext_iff, spriteColumn, spriteRow]
  constructor
  · rintro ⟨r, hr, c, hc, h1, h2, h3⟩; exact ⟨r, hr, c, hc, h1.symm, h2.symm, h3⟩
  · rintro ⟨r, hr, c, hc, h1, h2, h3⟩; exact ⟨r, hr, c, hc, h1.symm, h2.symm, h3⟩

end Sys2Proof.Machine
end

