-- ==== Sys2Proof/Laws/PerInstr.lean ====
section
/-! SUPPORT. The family `TableRow`: the encoded word of an instruction carries the fixed bits of its row of
spec/opcode_table.json (spec 30_encoding.md R52, R56). One lemma per constructor. -/

namespace Sys2Proof.Laws.TableRow

/-- The word of `i` fits `i`'s row: its masked bits are the row's pattern. -/
def Statement (i : Instr) : Prop := (rowOf i).fits (encode i) = true

/-- What the statement says of the bits: under the row's mask, the word is the row's match. -/
theorem encode_and_mask {i : Instr} (h : Statement i) : encode i &&& (rowOf i).mask = (rowOf i).pattern :=
  beq_iff_eq.mp h

/-- A word of format NNN or XNN or XYN of family `f` fits a row that fixes the family only. -/
theorem fits_family {w : Word} {r : TableRow} {f : BitVec 4} (hm : r.mask = 0xF000) (hf : family w = f)
    (hp : r.pattern = f ++ (0 : BitVec 12)) : r.fits w = true := by
  simp only [TableRow.fits, hm, and_mask_family, hf, hp, beq_self_eq_true]

/-- A word whose low nibble is `n` fits a row that fixes the family and the low nibble. -/
theorem fits_low_nibble {w : Word} {r : TableRow} {f : BitVec 4} {n : Fin 16} (hm : r.mask = 0xF00F)
    (hf : family w = f) (hn : fieldN w = n) (hp : r.pattern = f ++ (0 : BitVec 8) ++ nibble n) : r.fits w = true := by
  simp only [TableRow.fits, hm, and_mask_low_nibble, hf, hn, hp, beq_self_eq_true]

/-- A word whose low byte is `b` fits a row that fixes the family and the low byte. -/
theorem fits_low_byte {w : Word} {r : TableRow} {f : BitVec 4} {b : Byte} (hm : r.mask = 0xF0FF)
    (hf : family w = f) (hb : fieldNN w = b) (hp : r.pattern = f ++ (0 : BitVec 4) ++ b) : r.fits w = true := by
  simp only [TableRow.fits, hm, and_mask_low_byte, hf, hb, hp, beq_self_eq_true]

theorem clear : Statement .clear := rfl

theorem ret : Statement .ret := rfl

theorem sys (nnn : Addr) : Statement (.sys nnn) := fits_family rfl (family_encodeNNN ..) rfl

theorem jump (nnn : Addr) : Statement (.jump nnn) := fits_family rfl (family_encodeNNN ..) rfl

theorem call (nnn : Addr) : Statement (.call nnn) := fits_family rfl (family_encodeNNN ..) rfl

theorem skipEqImm (x : Reg) (nn : Byte) : Statement (.skipEqImm x nn) := fits_family rfl (family_encodeXNN ..) rfl

theorem skipNeqImm (x : Reg) (nn : Byte) : Statement (.skipNeqImm x nn) := fits_family rfl (family_encodeXNN ..) rfl

theorem skipEqReg (x y : Reg) : Statement (.skipEqReg x y) :=
  fits_low_nibble rfl (family_encodeXYN ..) (fieldN_encodeXYN ..) rfl

theorem loadImm (x : Reg) (nn : Byte) : Statement (.loadImm x nn) := fits_family rfl (family_encodeXNN ..) rfl

theorem addImm (x : Reg) (nn : Byte) : Statement (.addImm x nn) := fits_family rfl (family_encodeXNN ..) rfl

theorem copy (x y : Reg) : Statement (.copy x y) := fits_low_nibble rfl (family_encodeXYN ..) (fieldN_encodeXYN ..) rfl

theorem orReg (x y : Reg) : Statement (.orReg x y) :=
  fits_low_nibble rfl (family_encodeXYN ..) (fieldN_encodeXYN ..) rfl

theorem andReg (x y : Reg) : Statement (.andReg x y) :=
  fits_low_nibble rfl (family_encodeXYN ..) (fieldN_encodeXYN ..) rfl

theorem xorReg (x y : Reg) : Statement (.xorReg x y) :=
  fits_low_nibble rfl (family_encodeXYN ..) (fieldN_encodeXYN ..) rfl

theorem addReg (x y : Reg) : Statement (.addReg x y) :=
  fits_low_nibble rfl (family_encodeXYN ..) (fieldN_encodeXYN ..) rfl

theorem subReg (x y : Reg) : Statement (.subReg x y) :=
  fits_low_nibble rfl (family_encodeXYN ..) (fieldN_encodeXYN ..) rfl

theorem shiftRight (x y : Reg) : Statement (.shiftRight x y) :=
  fits_low_nibble rfl (family_encodeXYN ..) (fieldN_encodeXYN ..) rfl

theorem subnReg (x y : Reg) : Statement (.subnReg x y) :=
  fits_low_nibble rfl (family_encodeXYN ..) (fieldN_encodeXYN ..) rfl

theorem shiftLeft (x y : Reg) : Statement (.shiftLeft x y) :=
  fits_low_nibble rfl (family_encodeXYN ..) (fieldN_encodeXYN ..) rfl

theorem skipNeqReg (x y : Reg) : Statement (.skipNeqReg x y) :=
  fits_low_nibble rfl (family_encodeXYN ..) (fieldN_encodeXYN ..) rfl

theorem setIndex (nnn : Addr) : Statement (.setIndex nnn) := fits_family rfl (family_encodeNNN ..) rfl

theorem jumpIndexed (nnn : Addr) : Statement (.jumpIndexed nnn) := fits_family rfl (family_encodeNNN ..) rfl

theorem random (x : Reg) (nn : Byte) : Statement (.random x nn) := fits_family rfl (family_encodeXNN ..) rfl

theorem drawSprite (x y : Reg) (n : Fin 16) : Statement (.drawSprite x y n) := fits_family rfl (family_encodeXYN ..) rfl

theorem skipIfPressed (x : Reg) : Statement (.skipIfPressed x) :=
  fits_low_byte rfl (family_encodeXNN ..) (fieldNN_encodeXNN ..) rfl

theorem skipIfNotPressed (x : Reg) : Statement (.skipIfNotPressed x) :=
  fits_low_byte rfl (family_encodeXNN ..) (fieldNN_encodeXNN ..) rfl

theorem getDelay (x : Reg) : Statement (.getDelay x) :=
  fits_low_byte rfl (family_encodeXNN ..) (fieldNN_encodeXNN ..) rfl

theorem waitKey (x : Reg) : Statement (.waitKey x) := fits_low_byte rfl (family_encodeXNN ..) (fieldNN_encodeXNN ..) rfl

theorem setDelay (x : Reg) : Statement (.setDelay x) :=
  fits_low_byte rfl (family_encodeXNN ..) (fieldNN_encodeXNN ..) rfl

theorem setSound (x : Reg) : Statement (.setSound x) :=
  fits_low_byte rfl (family_encodeXNN ..) (fieldNN_encodeXNN ..) rfl

theorem addIndex (x : Reg) : Statement (.addIndex x) :=
  fits_low_byte rfl (family_encodeXNN ..) (fieldNN_encodeXNN ..) rfl

theorem fontIndex (x : Reg) : Statement (.fontIndex x) :=
  fits_low_byte rfl (family_encodeXNN ..) (fieldNN_encodeXNN ..) rfl

theorem storeBcd (x : Reg) : Statement (.storeBcd x) :=
  fits_low_byte rfl (family_encodeXNN ..) (fieldNN_encodeXNN ..) rfl

theorem storeRegs (x : Reg) : Statement (.storeRegs x) :=
  fits_low_byte rfl (family_encodeXNN ..) (fieldNN_encodeXNN ..) rfl

theorem loadRegs (x : Reg) : Statement (.loadRegs x) :=
  fits_low_byte rfl (family_encodeXNN ..) (fieldNN_encodeXNN ..) rfl

end Sys2Proof.Laws.TableRow
end

