-- ==== Sys2Proof/Tests/Slice0.lean ====
section
/-! SUPPORT. The model's own tests, each a named theorem. Expected results are the spec's: the worked examples of its rules and the
vectors of 95_test_vectors.md (sections L1, L2), cited by row or rule. The `witness_…` theorems give, for each obligation with
hypotheses, a concrete state and operands that meet them together. -/

namespace Sys2Proof.Tests

open Sys2Proof Sys2Proof.Machine

/-- A running core at 0x200 with the word `w` there and everything else as reset leaves it. -/
def at200 (w : Nat) : State := State.reset.withFetchWord 16 w

/-- The same with bytes at `a` and I pointing at them. -/
def pointing (w a : Nat) (bs : List Byte) : State := ((at200 w).storeBytes a bs).setIndex (BitVec.ofNat 16 a)

/-- What `f` sees of the next state, if there is one. -/
def seen {α : Type} (f : State → α) : Host.Outcome State Fault Refusal → Option α
  | .next t => some (f t)
  | .fault _ => none
  | .refused _ => none

/-- What `f` sees after one step. -/
def stepped {α : Type} (f : State → α) (s : State) : Option α := seen f (step s)

/-- RUN, FAULT, pc, DT and the status: what a fatal step is held against. -/
def control (s : State) : RunState × FatalCode × Word × Byte × Status := (s.run, s.fault, s.pc, s.dt, s.status)

/-! ### WellFormed refuses the ill-formed terms -/

theorem test_wellFormed_refuses_sys_00E0 : (Instr.sys 0x0E0).wellFormed = false := by decide
theorem test_wellFormed_refuses_sys_00EE : (Instr.sys 0x0EE).wellFormed = false := by decide
theorem test_wellFormed_accepts_sys_00E1 : (Instr.sys 0x0E1).wellFormed = true := by decide
theorem test_wellFormed_accepts_draw : (Instr.drawSprite 15 15 15).wellFormed = true := by decide

/-! ### Decoding: one word of every constructor, written out from the spec's encoding (R52, R57) -/

theorem test_decode_clear : decodeWord 0b0000000011100000 = .instr .clear := by decide
theorem test_decode_ret : decodeWord 0b0000000011101110 = .instr .ret := by decide
theorem test_decode_sys : decodeWord 0b0000000100100011 = .instr (.sys 0x123) := by decide
theorem test_decode_jump : decodeWord 0b0001001000110100 = .instr (.jump 0x234) := by decide
theorem test_decode_call : decodeWord 0b0010001100000000 = .instr (.call 0x300) := by decide
theorem test_decode_skipEqImm : decodeWord 0b0011001101000010 = .instr (.skipEqImm 0x3 0x42) := by decide
theorem test_decode_skipNeqImm : decodeWord 0b0100001101000010 = .instr (.skipNeqImm 0x3 0x42) := by decide
theorem test_decode_skipEqReg : decodeWord 0b0101000100100000 = .instr (.skipEqReg 0x1 0x2) := by decide
theorem test_decode_loadImm : decodeWord 0b0110101011111111 = .instr (.loadImm 0xA 0xFF) := by decide
theorem test_decode_addImm : decodeWord 0b0111000000000011 = .instr (.addImm 0x0 0x03) := by decide
theorem test_decode_copy : decodeWord 0b1000000100100000 = .instr (.copy 0x1 0x2) := by decide
theorem test_decode_orReg : decodeWord 0b1000000100100001 = .instr (.orReg 0x1 0x2) := by decide
theorem test_decode_andReg : decodeWord 0b1000000100100010 = .instr (.andReg 0x1 0x2) := by decide
theorem test_decode_xorReg : decodeWord 0b1000000100100011 = .instr (.xorReg 0x1 0x2) := by decide
theorem test_decode_addReg : decodeWord 0b1000000100100100 = .instr (.addReg 0x1 0x2) := by decide
theorem test_decode_subReg : decodeWord 0b1000000100100101 = .instr (.subReg 0x1 0x2) := by decide
theorem test_decode_shiftRight : decodeWord 0b1000000100100110 = .instr (.shiftRight 0x1 0x2) := by decide
theorem test_decode_subnReg : decodeWord 0b1000000100100111 = .instr (.subnReg 0x1 0x2) := by decide
theorem test_decode_shiftLeft : decodeWord 0b1000000100101110 = .instr (.shiftLeft 0x1 0x2) := by decide
theorem test_decode_skipNeqReg : decodeWord 0b1001000100100000 = .instr (.skipNeqReg 0x1 0x2) := by decide
theorem test_decode_setIndex : decodeWord 0b1010001011110000 = .instr (.setIndex 0x2F0) := by decide
theorem test_decode_jumpIndexed : decodeWord 0b1011010100000000 = .instr (.jumpIndexed 0x500) := by decide
theorem test_decode_random : decodeWord 0b1100000100001111 = .instr (.random 0x1 0x0F) := by decide
theorem test_decode_drawSprite : decodeWord 0b1101000100100101 = .instr (.drawSprite 0x1 0x2 0x5) := by decide
theorem test_decode_skipIfPressed : decodeWord 0b1110000110011110 = .instr (.skipIfPressed 0x1) := by decide
theorem test_decode_skipIfNotPressed : decodeWord 0b1110000110100001 = .instr (.skipIfNotPressed 0x1) := by decide
theorem test_decode_getDelay : decodeWord 0b1111000100000111 = .instr (.getDelay 0x1) := by decide
theorem test_decode_waitKey : decodeWord 0b1111001000001010 = .instr (.waitKey 0x2) := by decide
theorem test_decode_setDelay : decodeWord 0b1111000000010101 = .instr (.setDelay 0x0) := by decide
theorem test_decode_setSound : decodeWord 0b1111000000011000 = .instr (.setSound 0x0) := by decide
theorem test_decode_addIndex : decodeWord 0b1111000100011110 = .instr (.addIndex 0x1) := by decide
theorem test_decode_fontIndex : decodeWord 0b1111000100101001 = .instr (.fontIndex 0x1) := by decide
theorem test_decode_storeBcd : decodeWord 0b1111101000110011 = .instr (.storeBcd 0xA) := by decide
theorem test_decode_storeRegs : decodeWord 0b1111111101010101 = .instr (.storeRegs 0xF) := by decide
theorem test_decode_loadRegs : decodeWord 0b1111001001100101 = .instr (.loadRegs 0x2) := by decide

/-- 95 L2, decode: the words that are `sys`. -/
theorem test_decode_more_sys :
    decodeWord 0x0000 = .instr (.sys 0x000) ∧ decodeWord 0x00E1 = .instr (.sys 0x0E1) ∧
    decodeWord 0x01E0 = .instr (.sys 0x1E0) := by decide

/-- 95 L2, decode: UNKNOWN words of each pattern of R59. -/
theorem test_decode_unknown :
    decodeWord 0x5121 = .rejected .unknown5XYN ∧ decodeWord 0x9121 = .rejected .unknown9XYN ∧
    decodeWord 0x8AB8 = .rejected .unknown8XYN ∧ decodeWord 0x8ABF = .rejected .unknown8XYN ∧
    decodeWord 0xE0FF = .rejected .unknownEXSS ∧ decodeWord 0xF000 = .rejected .unknownFXSS ∧
    decodeWord 0xF0FF = .rejected .unknownFXSS := by decide

/-- R51: fewer than two bytes are no word. -/
theorem test_decode_truncated :
    decodeBytes [0x12] = .rejected .truncated ∧ decodeBytes [] = .rejected .truncated := by decide

/-- R43, S10: the byte at the lower address is the high byte; a third byte is not consumed. -/
theorem test_decode_big_endian : decodeBytes [0x12, 0x34, 0x56] = .instr (.jump 0x234) := by decide

theorem test_decodeTableWord : decodeTableWord 16 0xD125 = some (.drawSprite 1 2 5) ∧ decodeTableWord 16 0x5121 = none := by
  decide

/-- R2: the table has 35 rows. -/
theorem test_opcodeTable_length : opcodeTable.length = 35 := by decide

/-- R62: the syntax of some rows, from opcode_table.json. -/
theorem test_assembly :
    (Instr.loadImm 0xA 0x7B).assembly = "load-imm VA, 0x7B" ∧ (Instr.drawSprite 0 1 2).assembly = "draw-sprite V0, V1, 0x2" ∧
    (Instr.jump 0x20C).assembly = "jump 0x20C" := by decide

/-- 95 L3, P4: the ROM bytes of a program with a data directive. -/
theorem test_assemble_P4 :
    assemble [.instr (.setIndex 0x20A), .instr (.loadImm 0 60), .instr (.loadImm 1 31), .instr (.drawSprite 0 1 2),
      .instr (.jump 0x208), .bytes [0xF0, 0x81]] =
    [0xA2, 0x0A, 0x60, 0x3C, 0x61, 0x1F, 0xD0, 0x12, 0x12, 0x08, 0xF0, 0x81] := by decide

/-! ### The step cycle: fetch, unknown words, run states (95 L2) -/

/-- R55: the last fetchable address. -/
theorem test_fetch_FFE :
    stepped State.pc (({ at200 0 with pc := 0xFFE } : State).storeBytes 0xFFE [0x12, 0x00]) = some 0x200 := by decide

/-- R55: pc = 0xFFF is fatal, and neither pc nor the timers move. -/
theorem test_fetch_FFF :
    stepped control { at200 0 with pc := 0xFFF, dt := 5 } =
      some (.halted, .addressOutOfRange, 0xFFF, 5, .fatal .addressOutOfRange) := by decide

/-- R44: an odd pc is legal. -/
theorem test_fetch_odd :
    stepped (fun t => (t.getV 0, t.pc)) (({ at200 0 with pc := 0x201 } : State).storeBytes 0x201 [0x60, 0x07]) =
      some (0x07, 0x203) := by decide

/-- R106: a halted core answers FATAL and nothing changes. -/
theorem test_step_halted :
    stepped control { at200 0x6005 with run := .halted, fault := .stackOverflow, dt := 5 } =
      some (.halted, .stackOverflow, 0x200, 5, .fatal .stackOverflow) := by decide

/-- R113: after reset a step answers NOT_RUNNING. -/
theorem test_step_after_reset :
    stepped control { State.reset with dt := 5 } = some (.unloaded, .none, 0x200, 5, .notRunning) := by decide

/-- R60: an UNKNOWN word is reported and passed over, and the timers count (DT = 2 becomes 1). -/
theorem test_step_unknown :
    stepped control { at200 0x8ABF with dt := 2 } = some (.running, .none, 0x202, 1, .unknownOpcode 0x8ABF) := by decide

/-! ### One step of each instruction -/

/-- S3, R64. -/
theorem test_clear :
    stepped (fun t => (t.pixel 5 7, t.redraw, t.pc)) ((at200 0x00E0).setFb (blankFb.setPixel 5 7 true)) =
      some (false, true, 0x202) := by decide

/-- R65: STACK[0] = 0x204 resumes at 0x206, and the entry is not cleared. -/
theorem test_ret :
    stepped (fun t => (t.sp, t.pc, t.stack[0])) { at200 0x00EE with sp := 1, stack := Vector.replicate 16 0x204 } =
      some (0, 0x206, 0x204) := by decide

theorem test_ret_underflow :
    stepped control { at200 0x00EE with dt := 5 } =
      some (.halted, .stackUnderflow, 0x200, 5, .fatal .stackUnderflow) := by decide

/-- R66 and 95 L2: DT = 2 before and 1 after. -/
theorem test_sys :
    stepped control { at200 0x0123 with dt := 2 } = some (.running, .none, 0x202, 1, .unknownOpcode 0x0123) := by decide

theorem test_jump : stepped State.pc (at200 0x1FFF) = some 0xFFF := by decide

theorem test_call_last :
    stepped (fun t => (t.sp, t.pc, t.stack[15])) { at200 0x2300 with sp := 15 } = some (16, 0x300, 0x200) := by decide

theorem test_call_overflow :
    stepped control { at200 0x2300 with sp := 16, dt := 5 } =
      some (.halted, .stackOverflow, 0x200, 5, .fatal .stackOverflow) := by decide

theorem test_skipEqImm :
    stepped State.pc ((at200 0x3342).setV 3 0x42) = some 0x204 ∧ stepped State.pc ((at200 0x3342).setV 3 0x41) = some 0x202 := by
  decide

theorem test_skipNeqImm :
    stepped State.pc ((at200 0x4342).setV 3 0x41) = some 0x204 ∧ stepped State.pc ((at200 0x4342).setV 3 0x42) = some 0x202 := by
  decide

theorem test_skipEqReg :
    stepped State.pc (((at200 0x5120).setV 1 7).setV 2 7) = some 0x204 ∧
    stepped State.pc (((at200 0x5120).setV 1 7).setV 2 8) = some 0x202 := by decide

theorem test_loadImm : stepped (fun t => (t.getV 0xF, t.pc)) (at200 0x6F05) = some (0x05, 0x202) := by decide

/-- No carry flag: VF keeps 0x55. -/
theorem test_addImm_no_flag :
    stepped (fun t => (t.getV 1, t.getV vf)) (((at200 0x7101).setV 1 0xFF).setV vf 0x55) = some (0x00, 0x55) := by decide

/-- With X = F, VF is an ordinary destination. -/
theorem test_addImm_VF : stepped (fun t => t.getV vf) ((at200 0x7F01).setV vf 0xFF) = some 0x00 := by decide

theorem test_copy :
    stepped (fun t => (t.getV 1, t.getV 2)) (((at200 0x8120).setV 1 0x11).setV 2 0x9C) = some (0x9C, 0x9C) := by decide

theorem test_orReg :
    stepped (fun t => (t.getV 1, t.getV vf)) ((((at200 0x8121).setV 1 0xF0).setV 2 0x0F).setV vf 0x77) =
      some (0xFF, 0x77) := by decide

theorem test_andReg : stepped (fun t => t.getV 1) (((at200 0x8122).setV 1 0xF0).setV 2 0x3C) = some 0x30 := by decide

theorem test_xorReg : stepped (fun t => t.getV 1) (((at200 0x8123).setV 1 0xFF).setV 2 0x0F) = some 0xF0 := by decide

/-- S1. -/
theorem test_addReg :
    stepped (fun t => (t.getV 1, t.getV vf)) (((at200 0x8124).setV 1 0xFF).setV 2 0x01) = some (0x00, 1) ∧
    stepped (fun t => (t.getV 1, t.getV vf)) (((at200 0x8124).setV 1 0xFE).setV 2 0x01) = some (0xFF, 0) := by decide

/-- The flag overwrites the sum when X = F. -/
theorem test_addReg_VF : stepped (fun t => t.getV vf) (((at200 0x8F14).setV vf 0xFF).setV 1 0x02) = some 1 := by decide

theorem test_subReg :
    stepped (fun t => (t.getV 1, t.getV vf)) (((at200 0x8125).setV 1 0x04).setV 2 0x05) = some (0xFF, 0) ∧
    stepped (fun t => (t.getV 1, t.getV vf)) (((at200 0x8125).setV 1 0x05).setV 2 0x05) = some (0x00, 1) := by decide

theorem test_subReg_VF : stepped (fun t => t.getV vf) (((at200 0x8F15).setV vf 0x03).setV 1 0x05) = some 0 := by decide

/-- VY is ignored. -/
theorem test_shiftRight :
    stepped (fun t => (t.getV 1, t.getV vf)) (((at200 0x8126).setV 1 0x05).setV 2 0xFF) = some (0x02, 1) := by decide

theorem test_shiftRight_VF : stepped (fun t => t.getV vf) ((at200 0x8F66).setV vf 0x03) = some 1 := by decide

theorem test_subnReg :
    stepped (fun t => (t.getV 1, t.getV vf)) (((at200 0x8127).setV 1 0x03).setV 2 0x05) = some (0x02, 1) ∧
    stepped (fun t => (t.getV 1, t.getV vf)) (((at200 0x8127).setV 1 0x05).setV 2 0x03) = some (0xFE, 0) := by decide

theorem test_shiftLeft :
    stepped (fun t => (t.getV 1, t.getV vf)) ((at200 0x812E).setV 1 0x81) = some (0x02, 1) ∧
    stepped (fun t => (t.getV 1, t.getV vf)) ((at200 0x812E).setV 1 0x40) = some (0x80, 0) := by decide

theorem test_shiftLeft_VF : stepped (fun t => t.getV vf) ((at200 0x8F0E).setV vf 0x40) = some 0 := by decide

theorem test_skipNeqReg :
    stepped State.pc (((at200 0x9120).setV 1 1).setV 2 2) = some 0x204 ∧
    stepped State.pc (((at200 0x9120).setV 1 2).setV 2 2) = some 0x202 := by decide

/-- S8. -/
theorem test_setIndex : stepped (fun t => (t.index, t.pc)) (at200 0xA2F0) = some (0x2F0, 0x202) := by decide

/-- No wrap at 0x1000. -/
theorem test_jumpIndexed_top : stepped State.pc ((at200 0xBFFF).setV 0 0xFF) = some 0x10FE := by decide

/-- The register is V0, never V5. -/
theorem test_jumpIndexed_V0 : stepped State.pc ((at200 0xB500).setV 5 0x10) = some 0x500 := by decide

/-- The byte is the one RNG_NEXT gives for the current source, masked. -/
theorem test_random :
    stepped (fun t => (t.getV 1, t.rng)) (at200 0xC10F) =
      some ((rngNext Config.rngSeed).1 &&& 0x0F, (rngNext Config.rngSeed).2) := by rfl

/-- Wrap at both edges at once: 60 + 7 falls on column 3, row 32 on row 0 (P4). -/
theorem test_draw_wraps :
    stepped (fun t => (t.pixel 60 31, t.pixel 0 31, t.pixel 60 0, t.pixel 3 0, t.getV vf, t.redraw))
      (((pointing 0xD012 0x300 [0xF0, 0x81]).setV 0 60).setV 1 31) = some (true, false, true, true, 0, true) := by decide

/-- X = F takes the coordinate from the old VF, and a set cell under a 1 bit collides. -/
theorem test_draw_hit_VF :
    stepped (fun t => (t.pixel 1 0, t.getV vf))
      (((pointing 0xDF01 0x300 [0x80]).setV vf 1).setFb (blankFb.setPixel 1 0 true)) = some (false, 1) := by decide

theorem test_skipIfPressed :
    stepped State.pc { (at200 0xE19E).setV 1 3 with keys := Vector.replicate 16 true } = some 0x204 ∧
    stepped State.pc ((at200 0xE19E).setV 1 3) = some 0x202 := by decide

theorem test_skipIfPressed_fatal :
    stepped control ((at200 0xE19E).setV 1 0x10) =
      some (.halted, .keyIndexOutOfRange, 0x200, 0, .fatal .keyIndexOutOfRange) := by decide

theorem test_skipIfNotPressed :
    stepped State.pc ((at200 0xE1A1).setV 1 3) = some 0x204 ∧
    stepped State.pc { (at200 0xE1A1).setV 1 3 with keys := Vector.replicate 16 true } = some 0x202 := by decide

theorem test_skipIfNotPressed_fatal :
    stepped State.run ((at200 0xE1A1).setV 1 0xFF) = some .halted := by decide

theorem test_getDelay : stepped (fun t => (t.getV 1, t.dt)) { at200 0xF107 with dt := 4 } = some (4, 3) := by decide

/-- The least index of the pressed keys 3 and 9. -/
theorem test_waitKey :
    stepped (fun t => (t.getV 2, t.pc, t.status)) (writeKey 9 1 (writeKey 3 0xFF (at200 0xF20A))) = some (3, 0x202, .ok) := by
  decide

theorem test_waitKey_none :
    stepped control { at200 0xF20A with dt := 2 } = some (.running, .none, 0x200, 1, .waitKey) := by decide

theorem test_setDelay : stepped State.dt ((at200 0xF015).setV 0 5) = some 4 := by decide

theorem test_setSound :
    stepped (fun t => (t.st, t.tone)) ((at200 0xF018).setV 0 1) = some (0, false) ∧
    stepped (fun t => (t.st, t.tone)) ((at200 0xF018).setV 0 0x10) = some (0x0F, true) := by decide

/-- S5 and the boundary at 0xFFF. -/
theorem test_addIndex :
    stepped (fun t => (t.index, t.getV vf)) (((at200 0xF11E).setIndex 0xFFE).setV 1 1) = some (0xFFF, 0) ∧
    stepped (fun t => (t.index, t.getV vf)) ((at200 0xF11E).setIndex 0x1000) = some (0x1000, 1) := by decide

/-- The 16-bit wrap of I (D25), and X = F adds the old VF. -/
theorem test_addIndex_wrap :
    stepped (fun t => (t.index, t.getV vf)) (((at200 0xF11E).setIndex 0xFFFF).setV 1 1) = some (0x0000, 1) ∧
    stepped (fun t => (t.index, t.getV vf)) (((at200 0xFF1E).setIndex 0x100).setV vf 0x10) = some (0x110, 0) := by decide

theorem test_fontIndex : stepped State.index ((at200 0xF129).setV 1 0xFF) = some 0x4FB := by decide

theorem test_storeBcd :
    stepped (fun t => (t.readByte 0xFFD, t.readByte 0xFFE, t.readByte 0xFFF, t.index))
      (((at200 0xF133).setIndex 0xFFD).setV 1 128) = some (1, 2, 8, 0xFFD) := by decide

theorem test_storeBcd_fatal :
    stepped (fun t => (control t, t.readByte 0xFFE)) { ((at200 0xF133).setIndex 0xFFE).setV 1 107 with dt := 2 } =
      some ((.halted, .addressOutOfRange, 0x200, 2, .fatal .addressOutOfRange), 0) := by decide

theorem test_storeRegs :
    stepped (fun t => (t.readByte 0x300, t.readByte 0x301, t.readByte 0x302))
      ((((at200 0xF155).setIndex 0x300).setV 0 0x11).setV 1 0x22) = some (0x11, 0x22, 0) := by decide

/-- I = 0xFF0 and X = F: I ends at 0x1000 exactly when INDEX_ADVANCE. -/
theorem test_storeRegs_index :
    stepped State.index ((at200 0xFF55).setIndex 0xFF0) = some (if indexAdvance then 0x1000 else 0xFF0) := by rfl

theorem test_loadRegs :
    stepped (fun t => (t.getV 0, t.getV 1, t.getV 2, t.getV 3)) ((pointing 0xF265 0x300 [9, 8, 7]).setV 3 0x33) =
      some (9, 8, 7, 0x33) := by decide

theorem test_loadRegs_fatal :
    stepped control ((at200 0xFF65).setIndex 0xFF1) =
      some (.halted, .addressOutOfRange, 0x200, 0, .fatal .addressOutOfRange) := by decide

/-! ### Loading -/

/-- R39 and S10: an accepted load, byte for byte. -/
theorem test_load :
    (fun t : State => (t.run, t.readByte 0x200, t.readByte 0x201, t.status)) (loadProgram [0x12, 0x34] State.reset) =
      (.running, 0x12, 0x34, .ok) := by decide

/-- R39: a load of no bytes is accepted; a second load is refused. -/
theorem test_load_twice :
    (loadProgram [] State.reset).status = .ok ∧ (loadProgram [] (loadProgram [] State.reset)).status = .notAccepted := by decide

/-! ### Witnesses: for each obligation with hypotheses, a state and operands that meet them

The two hypotheses `indexAdvance = true` and `indexAdvance = false` of the store and load statements have no witness of their own:
INDEX_ADVANCE is open (R8), so exactly one of them holds and nothing in Lean can say which. -/

/-- A running state meets the invariant, and its step answers a next state. -/
theorem witness_EveryStepKeepsTheInvariant : (at200 0x6005).Inv ∧ ∃ t, step (at200 0x6005) = .next t :=
  ⟨⟨by decide, by decide, fun _ h => (by cases h), by decide, by decide⟩, _, rfl⟩

theorem witness_EveryHostActionKeepsTheInvariant : State.reset.Inv :=
  ⟨rfl, by decide, fun _ h => (by cases h), by decide, by decide⟩

/-- A state that a host action and a step lead to. -/
theorem witness_ReachablePcNeverExceeds10FE : ∃ t, step (loadProgram [0x12, 0x34] State.reset) = .next t ∧ t.Reachable :=
  ⟨_, rfl, .step (.host .reset (.loadProgram [0x12, 0x34])) rfl⟩

/-- An instruction that completes, and one that raises a fatal condition. -/
theorem witness_StepRunsTheDecodedInstruction :
    (∃ t, (Instr.loadImm 0 5).wellFormed = true ∧ (at200 0x6005).run = .running ∧ (at200 0x6005).pc.toNat + 1 ≤ 0xFFF ∧
      decodeWord (wordOfBytes ((at200 0x6005).readByte 0x200) ((at200 0x6005).readByte 0x201)) = .instr (.loadImm 0 5) ∧
      exec (.loadImm 0 5) { at200 0x6005 with status := .ok } = .next t ∧ t.run ≠ .halted) ∧
    (∃ t, Instr.ret.wellFormed = true ∧ (at200 0x00EE).run = .running ∧ (at200 0x00EE).pc.toNat + 1 ≤ 0xFFF ∧
      decodeWord (wordOfBytes ((at200 0x00EE).readByte 0x200) ((at200 0x00EE).readByte 0x201)) = .instr .ret ∧
      exec .ret { at200 0x00EE with status := .ok } = .next t ∧ t.run = .halted) :=
  ⟨⟨_, by decide, by decide, by decide, by decide, rfl, by decide⟩, _, by decide, by decide, by decide, by decide, rfl, by decide⟩

theorem witness_StepPassesOverAnUnknownWord :
    (at200 0x8ABF).run = .running ∧ (at200 0x8ABF).fetch = some 0x8ABF ∧ decodeWord 0x8ABF = .rejected .unknown8XYN := by decide

theorem witness_FetchReadsTheWordOrIsFatal :
    ({ at200 0 with pc := 0xFFE } : State).pc.toNat ≤ 0xFFE ∧ 0xFFE < ({ at200 0 with pc := 0xFFF } : State).pc.toNat ∧
    ({ at200 0 with pc := 0xFFF } : State).run = .running := by decide

theorem witness_HaltedStaysHaltedUntilReset :
    ({ at200 0 with run := .halted, fault := .stackOverflow } : State).run = .halted ∧
    (hostAct .reset { at200 0 with run := .halted, fault := .stackOverflow }).run ≠ .halted := by decide

theorem witness_StepBeforeLoadChangesNothing : State.reset.run = .unloaded := by decide

/-- Both sides of each boundary of the table of R105. -/
theorem witness_FatalConditionsArePrecise :
    fatalCondition { at200 0 with sp := 0 } .ret = some .stackUnderflow ∧ fatalCondition { at200 0 with sp := 1 } .ret = none ∧
    fatalCondition { at200 0 with sp := 16 } (.call 0) = some .stackOverflow ∧
    fatalCondition { at200 0 with sp := 15 } (.call 0) = none ∧
    fatalCondition ((at200 0).setIndex 0xFFF) (.drawSprite 0 0 2) = some .addressOutOfRange ∧
    fatalCondition ((at200 0).setIndex 0xFFF) (.drawSprite 0 0 1) = none ∧
    fatalCondition ((at200 0).setIndex 0xFFFF) (.drawSprite 0 0 0) = none ∧
    fatalCondition ((at200 0).setV 1 0x10) (.skipIfPressed 1) = some .keyIndexOutOfRange ∧
    fatalCondition ((at200 0).setV 1 0x0F) (.skipIfNotPressed 1) = none ∧
    fatalCondition ((at200 0).setIndex 0xFFE) (.storeBcd 0) = some .addressOutOfRange ∧
    fatalCondition ((at200 0).setIndex 0xFFD) (.storeBcd 0) = none ∧
    fatalCondition ((at200 0).setIndex 0xFF1) (.storeRegs 15) = some .addressOutOfRange ∧
    fatalCondition ((at200 0).setIndex 0xFF0) (.loadRegs 15) = none := by decide

/-- A running core whose step is fatal in the instruction, and one whose fetch is. -/
theorem witness_FatalConditionsArePrecise_step :
    (∃ t, (at200 0x00EE).run = .running ∧ step (at200 0x00EE) = .next t ∧ t.run = .halted) ∧
    ({ at200 0 with pc := 0xFFF } : State).run = .running ∧ 0xFFE < ({ at200 0 with pc := 0xFFF } : State).pc.toNat :=
  ⟨⟨_, by decide, rfl, by decide⟩, by decide, by decide⟩

theorem witness_OnlyTabledRegistersAreWritten :
    ∃ t, exec (.loadImm 3 0x42) (at200 0) = .next t ∧ t.getV 3 ≠ (at200 0).getV 3 := ⟨_, rfl, by decide⟩

/-- Two runs that differ in a register `load-imm` does not read. -/
theorem witness_OnlyTabledRegistersAreRead :
    (∀ k ∈ regsRead (.copy 1 2), (Vector.replicate 16 (0 : Byte))[k] = ((at200 0).setV 1 9).getV k) ∧
    (∃ t, exec (.copy 1 2) ((at200 0).setV 1 9) = .next t) ∧
    ∃ t', exec (.copy 1 2) { (at200 0).setV 1 9 with v := Vector.replicate 16 0 } = .next t' :=
  ⟨by decide, ⟨_, rfl⟩, _, rfl⟩

theorem witness_DevicesAreWrittenOnlyByTheirInstructions :
    (∃ t, exec .clear (at200 0) = .next t ∧ fatalCondition (at200 0) .clear = none) ∧
    (∃ t, exec (.random 0 0) (at200 0) = .next t) ∧
    (∃ t, exec (.jump 0) (at200 0) = .next t ∧ Instr.jump 0 ≠ .clear) :=
  ⟨⟨_, rfl, rfl⟩, ⟨_, rfl⟩, _, rfl, by decide⟩

/-- Each writer changes what it writes: I, SP and the stack, DT, ST, memory. -/
theorem witness_PointersTimersAndMemoryHaveTheirWriters :
    (∃ t, exec (.setIndex 0x300) (at200 0) = .next t ∧ t.index ≠ (at200 0).index) ∧
    (∃ t, exec (.call 0x300) (at200 0) = .next t ∧ t.sp ≠ (at200 0).sp ∧ t.stack[0] ≠ (at200 0).stack[0]) ∧
    (∃ t, exec (.setDelay 0) ((at200 0).setV 0 1) = .next t ∧ t.dt ≠ (at200 0).dt) ∧
    (∃ t, exec (.setSound 0) ((at200 0).setV 0 1) = .next t ∧ t.st ≠ (at200 0).st) ∧
    (∃ t, exec (.storeBcd 0) (((at200 0).setIndex 0xFFD).setV 0 1) = .next t ∧
      t.readByte 0xFFF ≠ ((at200 0).setV 0 1).readByte 0xFFF) :=
  ⟨⟨_, rfl, by decide⟩, ⟨_, rfl, by decide, by decide⟩, ⟨_, rfl, by decide⟩, ⟨_, rfl, by decide⟩, _, rfl, by decide⟩

/-- Cells at the two ends of the address space above the font. -/
theorem witness_CanonicalMemoryIsDeterminedByItsReads :
    Memory.wf [(0x50, 1), (0xFFF, 2)] = true ∧
    (∀ a, Memory.readByte [(0x50, 1), (0xFFF, 2)] a = Memory.readByte (Memory.writeBytes [(0xFFF, 2)] 0x50 [1]) a) ∧
    Memory.wf [(0x50, 0)] = false ∧ Memory.wf [(0x1000, 1)] = false :=
  ⟨by decide, fun _ => rfl, by decide, by decide⟩

theorem witness_DecodeOfEncodeIsTheInstruction :
    (Instr.drawSprite 15 0 15).wellFormed = true ∧ (Instr.sys 0xFFF).wellFormed = true := by decide

theorem witness_EncodeOfDecodeIsTheWord : decodeWord 0xFF65 = .instr (.loadRegs 0xF) := by decide

/-- The clauses' words: family 0, a row that fits, no row that fits. -/
theorem witness_DecodePicksTheOneRowThatFits :
    ((0x00E1 : Word) ≠ 0x00E0 ∧ (0x00E1 : Word) ≠ 0x00EE ∧ (0x00E1 : Word).toNat / 4096 = 0) ∧
    ((0x5120 : Word).toNat / 4096 ≠ 0 ∧ rowOf (.skipEqReg 0 0) ∈ matchedRows ∧ (rowOf (.skipEqReg 0 0)).fits 0x5120 = true) ∧
    ((0x5121 : Word).toNat / 4096 ≠ 0 ∧ ∀ r ∈ matchedRows, r.fits 0x5121 = false) := by decide

theorem witness_ReturnResumesAfterTheCallSite :
    ({ at200 0 with sp := 1 } : State).sp.val = (0 : Fin 16).val + 1 ∧
    ({ at200 0 with sp := 16 } : State).sp.val = (15 : Fin 16).val + 1 ∧ (at200 0).sp.val = 0 := by decide

theorem witness_SysReportsItsWord : (0x123 : Addr) ≠ 0x0E0 ∧ (0x123 : Addr) ≠ 0x0EE := by decide

theorem witness_CallPushesItsOwnAddress :
    (at200 0).sp.val = (0 : Fin 16).val ∧ ({ at200 0 with sp := 15 } : State).sp.val = (15 : Fin 16).val ∧
    ({ at200 0 with sp := 16 } : State).sp.val = 16 := by decide

/-- The callee's state just before its return, with other registers changed. -/
theorem witness_CallThenReturnComesBack :
    ({ at200 0 with sp := 15 } : State).sp.val < 16 ∧
    ∃ t u : State, exec (.call 0x300) { at200 0 with sp := 15 } = .next t ∧ u.sp = t.sp ∧ u.stack = t.stack ∧ u.getV 0 = 7 :=
  ⟨by decide, _, State.setV _ 0 7, rfl, rfl, rfl, rfl⟩

theorem witness_RandomStoresTheMaskedByte :
    ∃ r next, rngNext (at200 0).rng = (r, next) := ⟨_, _, rfl⟩

/-- N = 0 with I out of range, blocks that end at 0xFFF, blocks one past it; a set and a free cell under a sprite. -/
theorem witness_DrawTogglesExactlyTheCoveredCells :
    ((0 : Fin 16).val = 0 ∨ ((at200 0).setIndex 0xFFFF).blockBase + (0 : Fin 16).val - 1 ≤ 0xFFF) ∧
    ((15 : Fin 16).val = 0 ∨ ((at200 0).setIndex 0xFF1).blockBase + (15 : Fin 16).val - 1 ≤ 0xFFF) ∧
    (0 < (15 : Fin 16).val ∧ 0xFFF < ((at200 0).setIndex 0xFF2).blockBase + (15 : Fin 16).val - 1) ∧
    (0 < (1 : Fin 16).val ∧ 0xFFF < ((at200 0).setIndex 0x1000).blockBase + (1 : Fin 16).val - 1) ∧
    SpriteCovers ((pointing 0 0x300 [0x80]).setFb (blankFb.setPixel 0 0 true)) 0 1 1 0 0 ∧
    ((pointing 0 0x300 [0x80]).setFb (blankFb.setPixel 0 0 true)).pixel 0 0 = true ∧
    (∀ p q, ¬SpriteCovers (pointing 0 0x300 [0x00]) 0 1 0 p q) := by
  refine ⟨by decide, by decide, by decide, by decide, ⟨0, by decide, 0, by decide, by decide, by decide, by decide⟩, by decide, ?_⟩
  rintro p q ⟨r, hr, -⟩
  exact absurd hr (Nat.not_lt_zero r)

theorem witness_DrawingTwiceRestoresTheScreen :
    (0 : Reg) ≠ vf ∧ (1 : Reg) ≠ vf ∧
    ((15 : Fin 16).val = 0 ∨ ((at200 0).setIndex 0xFF1).blockBase + (15 : Fin 16).val - 1 ≤ 0xFFF) := by decide

theorem witness_KeySkipsTestTheNamedKey :
    ((at200 0).getV 1).toNat = (0 : Key).val ∧ (((at200 0).setV 1 15).getV 1).toNat = (15 : Key).val ∧
    0xF < (((at200 0).setV 1 16).getV 1).toNat := by decide

theorem witness_WaitKeyStoresTheLeastPressedKey :
    ((writeKey 0 1 (at200 0)).keys[(0 : Key)] = true ∧ ∀ j : Key, j < 0 → (writeKey 0 1 (at200 0)).keys[j] = false) ∧
    ((writeKey 15 1 (at200 0)).keys[(15 : Key)] = true ∧ ∀ j : Key, j < 15 → (writeKey 15 1 (at200 0)).keys[j] = false) ∧
    (∀ k : Key, (at200 0).keys[k] = false) := by decide

theorem witness_WaitingStepsOnlyCountDown :
    (at200 0xF20A).run = .running ∧ (at200 0xF20A).fetch = some 0xF20A ∧ decodeWord 0xF20A = .instr (.waitKey 2) ∧
    ∀ k : Key, (at200 0xF20A).keys[k] = false := by decide

theorem witness_StoreBcdWritesThreeDigits :
    ((at200 0).setIndex 0xFFD).blockBase + 2 ≤ 0xFFF ∧ 0xFFF < ((at200 0).setIndex 0xFFE).blockBase + 2 := by decide

theorem witness_StoreRegsWritesV0ToVX :
    ((at200 0).setIndex 0xFF0).blockBase + (15 : Reg).val ≤ 0xFFF ∧
    0xFFF < ((at200 0).setIndex 0xFF1).blockBase + (15 : Reg).val ∧
    ((at200 0).setIndex 0xFFF).blockBase + (0 : Reg).val ≤ 0xFFF := by decide

theorem witness_LoadRegsReadsV0ToVX :
    ((at200 0).setIndex 0xFF0).blockBase + (15 : Reg).val ≤ 0xFFF ∧
    0xFFF < ((at200 0).setIndex 0xFF1).blockBase + (15 : Reg).val ∧
    ((at200 0).setIndex 0xFFF).blockBase + (0 : Reg).val ≤ 0xFFF := by decide

/-- The state after the store with its registers reset and I reloaded (S6). -/
theorem witness_StoredRegistersLoadBack :
    ((at200 0).setIndex 0x300).blockBase + (3 : Reg).val ≤ 0xFFF ∧
    ∃ t u : State, exec (.storeRegs 3) ((at200 0).setIndex 0x300) = .next t ∧ u.mem = t.mem ∧
      u.index = ((at200 0).setIndex 0x300).index ∧ u.v = Vector.replicate 16 0xEE :=
  ⟨by decide, _, { State.reset with mem := _, index := 0x300, v := Vector.replicate 16 0xEE }, rfl, rfl, rfl, rfl⟩

theorem witness_NextFetchSeesTheStore :
    ((at200 0xF155).setIndex 0x202).run = .running ∧ ((at200 0xF155).setIndex 0x202).fetch = some 0xF155 ∧
    decodeWord 0xF155 = .instr (.storeRegs 1) ∧ 1 ≤ (1 : Reg).val ∧
    ((at200 0xF155).setIndex 0x202).index = ((at200 0xF155).setIndex 0x202).pc + 2 ∧
    ((at200 0xF155).setIndex 0x202).blockBase + (1 : Reg).val ≤ 0xFFF := by decide

/-- A step that completes, one that is fatal, and one of a core that is not running. -/
theorem witness_TimersCountOncePerStep :
    (∃ t, step (at200 0x6005) = .next t ∧ (at200 0x6005).run = .running ∧ t.run = .running) ∧
    (∃ t, step (at200 0x00EE) = .next t ∧ t.run ≠ .running) ∧
    (∃ t, step State.reset = .next t ∧ State.reset.run ≠ .running) :=
  ⟨⟨_, rfl, by decide, by decide⟩, ⟨_, rfl, by decide⟩, _, rfl, by decide⟩

theorem witness_TimerWritesLoseOneInTheSameStep :
    ((at200 0xF015).run = .running ∧ (at200 0xF015).fetch = some 0xF015 ∧ decodeWord 0xF015 = .instr (.setDelay 0)) ∧
    ((at200 0xF018).run = .running ∧ (at200 0xF018).fetch = some 0xF018 ∧ decodeWord 0xF018 = .instr (.setSound 0)) := by decide

theorem witness_GetDelayReadsDT :
    (at200 0xF107).run = .running ∧ (at200 0xF107).fetch = some 0xF107 ∧ decodeWord 0xF107 = .instr (.getDelay 1) := by decide

/-- Lengths 0 and 3584 are accepted, 3585 is not (S11), and a running core takes no load. -/
theorem witness_LoadProgramCopiesOrRefuses :
    (at200 0).run ≠ .unloaded ∧ State.reset.run = .unloaded ∧ ([] : List Byte).length ≤ 3584 ∧
    (List.replicate 3584 (0 : Byte)).length ≤ 3584 ∧ 3584 < (List.replicate 3585 (0 : Byte)).length := by
  refine ⟨by decide, by decide, by decide, ?_, ?_⟩ <;> rw [List.length_replicate]
  decide

theorem witness_FirstFetchIsTheFirstRomWord :
    ([] : List Byte).length ≤ 3582 ∧ (List.replicate 3582 (0 : Byte)).length ≤ 3582 := by
  refine ⟨by decide, ?_⟩; rw [List.length_replicate]

/-- The last cell of the linear view. -/
theorem witness_HostTouchesOnlyItsInterface :
    (31 : Row).val * 64 + (63 : Column).val < 2048 ∧ (3 : Key) ≠ 4 := by decide

/-- A self-jump at 0x200, and one at the last fetchable address. -/
theorem witness_EndedRunOnlyCountsDown :
    (at200 0x1200).EndedAt 0x200 ∧ (({ at200 0 with pc := 0xFFE } : State).storeBytes 0xFFE [0x1F, 0xFE]).EndedAt 0xFFE :=
  ⟨⟨by decide, by decide, by decide, by decide⟩, by decide, by decide, by decide, by decide⟩

end Sys2Proof.Tests
end

section
/-! SUPPORT. What one execution can do, said once: it is fatal, exactly when the table of R105 says so, or it completes in
one of the ways listed by `Completes` (spec 60_exceptions.md R104, R105). -/

namespace Sys2Proof.Machine

@[simp] theorem State.passOver_eq (s : State) (w : Word) :
    s.passOver w = (s.answer (.unknownOpcode w)).setPc (s.pc + 2) := rfl

/-- The ways an execution that raises no fatal condition can end, one per instruction and two for `wait-key` (R93). -/
inductive Completes (s : State) : Instr → State → Prop
  | clear : Completes s .clear ((s.setFb blankFb).requestRedraw.advance 2)
  | ret (used : 0 < s.sp.val) : Completes s .ret ((s.pop used).setPc (s.top used + 2))
  | sys (nnn : Addr) : Completes s (.sys nnn) (s.passOver (encode (.sys nnn)))
  | jump (nnn : Addr) : Completes s (.jump nnn) (s.setPc (zext16 nnn))
  | call (nnn : Addr) (room : s.sp.val < 16) : Completes s (.call nnn) ((s.push room s.pc).setPc (zext16 nnn))
  | skipEqImm (x : Reg) (nn : Byte) : Completes s (.skipEqImm x nn) (s.skipIf (s.getV x == nn))
  | skipNeqImm (x : Reg) (nn : Byte) : Completes s (.skipNeqImm x nn) (s.skipIf (s.getV x != nn))
  | skipEqReg (x y : Reg) : Completes s (.skipEqReg x y) (s.skipIf (s.getV x == s.getV y))
  | loadImm (x : Reg) (nn : Byte) : Completes s (.loadImm x nn) ((s.setV x nn).advance 2)
  | addImm (x : Reg) (nn : Byte) : Completes s (.addImm x nn) ((s.setV x (addResult (s.getV x) nn)).advance 2)
  | copy (x y : Reg) : Completes s (.copy x y) ((s.setV x (s.getV y)).advance 2)
  | orReg (x y : Reg) : Completes s (.orReg x y) ((s.setV x (s.getV x ||| s.getV y)).advance 2)
  | andReg (x y : Reg) : Completes s (.andReg x y) ((s.setV x (s.getV x &&& s.getV y)).advance 2)
  | xorReg (x y : Reg) : Completes s (.xorReg x y) ((s.setV x (s.getV x ^^^ s.getV y)).advance 2)
  | addReg (x y : Reg) : Completes s (.addReg x y)
      ((s.setResultAndFlag x (addResult (s.getV x) (s.getV y)) (addCarry (s.getV x) (s.getV y))).advance 2)
  | subReg (x y : Reg) : Completes s (.subReg x y)
      ((s.setResultAndFlag x (subResult (s.getV x) (s.getV y)) (subNoBorrow (s.getV x) (s.getV y))).advance 2)
  | shiftRight (x y : Reg) : Completes s (.shiftRight x y)
      ((s.setResultAndFlag x (shiftRightResult (s.getV x)) (shiftRightOut (s.getV x))).advance 2)
  | subnReg (x y : Reg) : Completes s (.subnReg x y)
      ((s.setResultAndFlag x (subResult (s.getV y) (s.getV x)) (subNoBorrow (s.getV y) (s.getV x))).advance 2)
  | shiftLeft (x y : Reg) : Completes s (.shiftLeft x y)
      ((s.setResultAndFlag x (shiftLeftResult (s.getV x)) (shiftLeftOut (s.getV x))).advance 2)
  | skipNeqReg (x y : Reg) : Completes s (.skipNeqReg x y) (s.skipIf (s.getV x != s.getV y))
  | setIndex (nnn : Addr) : Completes s (.setIndex nnn) ((s.setIndex (zext16 nnn)).advance 2)
  | jumpIndexed (nnn : Addr) : Completes s (.jumpIndexed nnn) (s.setPc (indexedTarget nnn (s.getV 0)))
  | random (x : Reg) (nn : Byte) : Completes s (.random x nn) ((s.advanceRng.setV x (s.randomByte &&& nn)).advance 2)
  | drawSprite (x y : Reg) (n : Fin 16) : Completes s (.drawSprite x y n)
      ((((s.setFb (s.drawn x y n.val).1).setFlag (s.drawn x y n.val).2).requestRedraw).advance 2)
  | skipIfPressed (x : Reg) (k : Key) (named : k.val = (s.getV x).toNat) :
      Completes s (.skipIfPressed x) (s.skipIf (s.pressed k == true))
  | skipIfNotPressed (x : Reg) (k : Key) (named : k.val = (s.getV x).toNat) :
      Completes s (.skipIfNotPressed x) (s.skipIf (s.pressed k == false))
  | getDelay (x : Reg) : Completes s (.getDelay x) ((s.setV x s.dt).advance 2)
  | waitKeyFound (x : Reg) (k : Key) (least : s.leastPressed = some k) :
      Completes s (.waitKey x) ((s.setV x (BitVec.ofNat 8 k.val)).advance 2)
  | waitKeyNone (x : Reg) (least : s.leastPressed = none) : Completes s (.waitKey x) (s.answer .waitKey)
  | setDelay (x : Reg) : Completes s (.setDelay x) ((s.setDt (s.getV x)).advance 2)
  | setSound (x : Reg) : Completes s (.setSound x) ((s.setSt (s.getV x)).advance 2)
  | addIndex (x : Reg) : Completes s (.addIndex x)
      (((s.setIndex (indexSum s.index (s.getV x))).setFlag (indexRange s.index (s.getV x))).advance 2)
  | fontIndex (x : Reg) : Completes s (.fontIndex x) ((s.setIndex (glyphAddress (s.getV x))).advance 2)
  | storeBcd (x : Reg) : Completes s (.storeBcd x) ((s.storeBytes s.blockBase (bcdDigits (s.getV x))).advance 2)
  | storeRegs (x : Reg) : Completes s (.storeRegs x)
      (((s.storeBytes s.blockBase (s.lowRegs x)).advanceIndex x).advance 2)
  | loadRegs (x : Reg) : Completes s (.loadRegs x) (((s.loadLowRegs x s.blockBase).advanceIndex x).advance 2)

/-- An execution is fatal: its fault condition holds and only the fatal entry happens (R104). -/
def ExecFatal (i : Instr) (s : State) : Prop :=
  ∃ c, fatalCondition s i = some c ∧ exec i s = .next (s.raiseFatal c)

/-- An execution completes: its fault condition does not hold and it ends in one of the listed ways. -/
def ExecCompletes (i : Instr) (s : State) : Prop :=
  fatalCondition s i = none ∧ ∃ t, exec i s = .next t ∧ Completes s i t

variable {s t : State} {i : Instr}

/-- A test before the first write: the instruction is fatal where `p` holds, else it completes (R105). -/
theorem exec_guarded {p : Prop} [Decidable p] {ok : Bool} {code : FatalCode} (hexec : exec i s = guarded ok code s t)
    (hfault : fatalCondition s i = if p then some code else none) (hok : ok = true ↔ ¬p) (h : Completes s i t) :
    ExecFatal i s ∨ ExecCompletes i s := by
  rcases guarded_cases ok code s t with ⟨rfl, hg⟩ | ⟨rfl, hg⟩
  · exact .inr ⟨by rw [hfault, if_neg (hok.mp rfl)], t, hexec.trans hg, h⟩
  · exact .inl ⟨code, by rw [hfault, if_pos (by simpa using hok)], hexec.trans hg⟩

/-- A key-state skip is fatal where VX names no key, else it completes (R90, R91). -/
theorem exec_skipOnKey {x : Reg} {wanted : Bool} (hexec : exec i s = skipOnKey x wanted s)
    (hfault : fatalCondition s i = if (s.getV x).toNat > 0xF then some .keyIndexOutOfRange else none)
    (h : ∀ k : Key, k.val = (s.getV x).toNat → Completes s i (s.skipIf (s.pressed k == wanted))) :
    ExecFatal i s ∨ ExecCompletes i s := by
  rcases skipOnKey_cases x wanted s with ⟨k, hk, hs⟩ | ⟨hk, hs⟩
  · exact .inr ⟨by rw [hfault, if_neg (by omega)], _, hexec.trans hs, h k hk⟩
  · exact .inl ⟨_, by rw [hfault, if_pos hk], hexec.trans hs⟩

theorem State.blockOk_iff (n : Nat) : s.blockOk n = true ↔ n = 0 ∨ s.index.toNat + n ≤ 4096 :=
  blockInRange_iff ..

/-- What an execution can do: the fatal entry or completion, as the table of R105 tells. -/
theorem exec_cases (i : Instr) (s : State) : ExecFatal i s ∨ ExecCompletes i s := by
  cases i with
  | ret =>
    by_cases used : 0 < s.sp.val
    · exact .inr ⟨if_neg (by omega), _, dif_pos used, .ret used⟩
    · exact .inl ⟨_, if_pos (by omega), dif_neg used⟩
  | call nnn =>
    by_cases room : s.sp.val < 16
    · exact .inr ⟨if_neg (by omega), _, dif_pos room, .call nnn room⟩
    · exact .inl ⟨_, if_pos (by omega), dif_neg room⟩
  | waitKey x =>
    cases least : s.leastPressed with
    | some k => exact .inr ⟨rfl, _, by simp only [exec, execWaitKey, least], .waitKeyFound x k least⟩
    | none => exact .inr ⟨rfl, _, by simp only [exec, execWaitKey, least], .waitKeyNone x least⟩
  | skipIfPressed x => exact exec_skipOnKey rfl rfl (.skipIfPressed x)
  | skipIfNotPressed x => exact exec_skipOnKey rfl rfl (.skipIfNotPressed x)
  | drawSprite x y n => exact exec_guarded rfl rfl (by rw [State.blockOk_iff]; omega) (.drawSprite x y n)
  | storeBcd x => exact exec_guarded rfl rfl (by rw [State.blockOk_iff]; omega) (.storeBcd x)
  | storeRegs x => exact exec_guarded rfl rfl (by rw [State.blockOk_iff]; omega) (.storeRegs x)
  | loadRegs x => exact exec_guarded rfl rfl (by rw [State.blockOk_iff]; omega) (.loadRegs x)
  | _ => exact .inr ⟨rfl, _, rfl, by constructor⟩

/-- The inversion of an execution: its next state is the fatal entry's, or one it completes with. -/
theorem exec_next_cases (h : exec i s = .next t) :
    (∃ c, fatalCondition s i = some c ∧ t = s.raiseFatal c) ∨ (fatalCondition s i = none ∧ Completes s i t) := by
  rcases exec_cases i s with ⟨c, hf, hc⟩ | ⟨hf, u, hu, hc⟩
  · exact .inl ⟨c, hf, Host.Outcome.next.inj (h.symm.trans hc)⟩
  · obtain rfl := Host.Outcome.next.inj (h.symm.trans hu)
    exact .inr ⟨hf, hc⟩

end Sys2Proof.Machine
end

section
/-! SUPPORT. Who writes and who reads what (spec 10_state.md): the state after reset, the writers of each item of state, and the
registers an execution depends on. -/

namespace Sys2Proof.Machine

variable {s t : State} {i : Instr}

/-! ### Reset (R31, R40) -/

/-- Settles O1: each field is as `State.reset` gives it, and its empty memory reads as unlisted everywhere. -/
theorem resetLeavesTheTabledState : Obligations.ResetLeavesTheTabledState := by
  refine ⟨fun k => ?_, rfl, rfl, rfl, fun k => ?_, rfl, rfl, blankFb_pixel, fun k => ?_, rfl, rfl, rfl, rfl,
    fun a ha => if_pos ha, fun a ha _ => if_neg (Nat.not_lt.mpr ha)⟩
  · simp [State.reset, State.getV]
  · simp [State.reset]
  · simp [State.reset, State.pressed]

/-! ### Registers written (R15) -/

@[simp] theorem mem_regsUpTo {x k : Reg} : k ∈ regsUpTo x ↔ k ≤ x := by simp [regsUpTo]

/-- The registers an instruction is not tabled to write keep their value (R15). -/
theorem Completes.getV_of_not_written (h : Completes s i t) {k : Reg} (hk : k ∉ regsWritten i) : t.getV k = s.getV k := by
  cases h with
  | loadImm | addImm | copy | orReg | andReg | xorReg | random | getDelay | waitKeyFound
  | addReg | subReg | shiftRight | subnReg | shiftLeft | drawSprite | addIndex | loadRegs =>
    simp only [regsWritten, List.mem_cons, List.not_mem_nil, or_false, not_or, mem_regsUpTo] at hk
    simp [State.getV_setV, hk]
  | _ => simp

/-- Settles O13: the fatal entry writes no register, and a completed execution only tabled ones. -/
theorem onlyTabledRegistersAreWritten : Obligations.OnlyTabledRegistersAreWritten := by
  intro i s t k h hne
  by_contra hk
  rcases exec_next_cases h with ⟨c, -, rfl⟩ | ⟨-, hc⟩
  · exact hne (s.raiseFatal_getV c k)
  · exact hne (hc.getV_of_not_written hk)

/-! ### Devices (R24, R25, R26, R29) -/

theorem Completes.keys_eq (h : Completes s i t) : t.keys = s.keys := by cases h <;> simp

theorem Completes.redraw_of_draws (h : Completes s i t) (hi : i = .clear ∨ ∃ x y n, i = .drawSprite x y n) :
    t.redraw = true := by
  rcases hi with rfl | ⟨x, y, n, rfl⟩ <;> cases h <;> simp

theorem Completes.fb_redraw_eq (h : Completes s i t) (hclear : i ≠ .clear) (hdraw : ∀ x y n, i ≠ .drawSprite x y n) :
    t.fb = s.fb ∧ t.redraw = s.redraw := by
  cases h with
  | clear => exact absurd rfl hclear
  | drawSprite x y n => exact absurd rfl (hdraw x y n)
  | _ => simp

theorem Completes.rng_random {x : Reg} {nn : Byte} (h : Completes s (.random x nn) t) : t.rng = (rngNext s.rng).2 := by
  cases h; simp

theorem Completes.rng_eq (h : Completes s i t) (hi : ∀ x nn, i ≠ .random x nn) : t.rng = s.rng := by
  cases h with
  | random x nn => exact absurd rfl (hi x nn)
  | _ => simp

/-- Settles O15: the fatal entry touches no device, and each way to complete only its own. -/
theorem devicesAreWrittenOnlyByTheirInstructions : Obligations.DevicesAreWrittenOnlyByTheirInstructions := by
  intro i s t h
  rcases exec_next_cases h with ⟨c, hf, rfl⟩ | ⟨-, hc⟩
  · refine ⟨rfl, fun _ hn => ?_, fun _ => ⟨rfl, rfl⟩, ?_, fun _ => rfl⟩
    · simp [hf] at hn
    · rintro ⟨x, nn, rfl⟩; cases hf
  · refine ⟨hc.keys_eq, fun hi _ => hc.redraw_of_draws hi, fun hi => hc.fb_redraw_eq hi.1 hi.2, ?_, hc.rng_eq⟩
    rintro ⟨x, nn, rfl⟩; exact hc.rng_random

/-! ### I, SP, the stack, the timers and memory (R17, R20-R23, R45) -/

theorem Completes.writer_of_index_ne (h : Completes s i t) (hne : t.index ≠ s.index) :
    (∃ nnn, i = .setIndex nnn) ∨ (∃ x, i = .addIndex x) ∨ (∃ x, i = .fontIndex x) ∨
      (indexAdvance = true ∧ ∃ x, i = .storeRegs x ∨ i = .loadRegs x) := by
  cases h with
  | setIndex | addIndex | fontIndex => simp
  | storeRegs | loadRegs =>
    have hadv : indexAdvance = true := by by_contra hoff; simp [hoff] at hne
    simp [hadv]
  | _ => simp at hne

theorem Completes.writer_of_sp_ne (h : Completes s i t) (hne : t.sp ≠ s.sp) : i = .ret ∨ ∃ nnn, i = .call nnn := by
  cases h with
  | ret | call => simp
  | _ => simp at hne

theorem Completes.writer_of_stack_ne (h : Completes s i t) {k : Fin 16} (hne : t.stack[k] ≠ s.stack[k]) :
    (∃ nnn, i = .call nnn) ∧ k.val = s.sp.val := by
  cases h with
  | call nnn room =>
    refine ⟨⟨nnn, rfl⟩, ?_⟩
    by_contra hk
    exact hne (by simp [Vector.getElem_set_ne, Ne.symm hk])
  | _ => simp at hne

theorem Completes.writer_of_dt_ne (h : Completes s i t) (hne : t.dt ≠ s.dt) : ∃ x, i = .setDelay x := by
  cases h with
  | setDelay x => exact ⟨x, rfl⟩
  | _ => simp at hne

theorem Completes.writer_of_st_ne (h : Completes s i t) (hne : t.st ≠ s.st) : ∃ x, i = .setSound x := by
  cases h with
  | setSound x => exact ⟨x, rfl⟩
  | _ => simp at hne

/-- A byte that a block write changes is in the block. -/
theorem State.in_block_of_storeBytes_readByte_ne {a b : Nat} {xs : List Byte}
    (hne : (s.storeBytes a xs).readByte b ≠ s.readByte b) : a ≤ b ∧ b < a + xs.length := by
  by_contra hout
  exact hne (Memory.readByte_writeBytes_outside _ (by omega))

theorem Completes.writer_of_readByte_ne (h : Completes s i t) {a : Nat} (hne : t.readByte a ≠ s.readByte a) :
    (∃ x, i = .storeBcd x ∧ s.blockBase ≤ a ∧ a ≤ s.blockBase + 2) ∨
      (∃ x, i = .storeRegs x ∧ s.blockBase ≤ a ∧ a ≤ s.blockBase + x.val) := by
  cases h with
  | storeBcd x =>
    have hin := State.in_block_of_storeBytes_readByte_ne hne
    rw [bcdDigits_length] at hin
    exact .inl ⟨x, rfl, by omega⟩
  | storeRegs x =>
    have hin := State.in_block_of_storeBytes_readByte_ne hne
    rw [lowRegs_length] at hin
    exact .inr ⟨x, rfl, by omega⟩
  | _ => simp at hne

/-- Settles O16: the fatal entry changes none of these, and each way to complete only what it is tabled to write. -/
theorem pointersTimersAndMemoryHaveTheirWriters : Obligations.PointersTimersAndMemoryHaveTheirWriters := by
  intro i s t h
  rcases exec_next_cases h with ⟨c, -, rfl⟩ | ⟨-, hc⟩
  · simp
  · exact ⟨hc.writer_of_index_ne, hc.writer_of_sp_ne, fun _ => hc.writer_of_stack_ne, hc.writer_of_dt_ne,
      hc.writer_of_st_ne, fun _ => hc.writer_of_readByte_ne⟩

/-! ### Registers read (R15) -/

section Agreement

variable {t' : State} {v' : Vector Byte 16}

/-- `s` with the general registers `v'`. -/
def State.withRegs (s : State) (v' : Vector Byte 16) : State := { s with v := v' }

@[simp] theorem State.withRegs_v : (s.withRegs v').v = v' := rfl
@[simp] theorem State.withRegs_index : (s.withRegs v').index = s.index := rfl
@[simp] theorem State.withRegs_dt : (s.withRegs v').dt = s.dt := rfl
@[simp] theorem State.withRegs_readByte (a : Nat) : (s.withRegs v').readByte a = s.readByte a := rfl
@[simp] theorem State.withRegs_fb : (s.withRegs v').fb = s.fb := rfl
@[simp] theorem State.withRegs_mem : (s.withRegs v').mem = s.mem := rfl
@[simp] theorem State.withRegs_pc : (s.withRegs v').pc = s.pc := rfl
@[simp] theorem State.withRegs_blockBase : (s.withRegs v').blockBase = s.blockBase := rfl
@[simp] theorem State.withRegs_randomByte : (s.withRegs v').randomByte = s.randomByte := rfl

@[simp] theorem State.withRegs_setIndex (a : Word) : (s.withRegs v').setIndex a = (s.setIndex a).withRegs v' := rfl
@[simp] theorem State.withRegs_setPc (a : Word) : (s.withRegs v').setPc a = (s.setPc a).withRegs v' := rfl

theorem State.skipIf_withRegs (b : Bool) : (s.withRegs v').skipIf b = (s.skipIf b).withRegs v' := by cases b <;> rfl

/-- The second execution left what the first left, but for registers the instruction did not write (R15). -/
def SameButUnwritten (i : Instr) (s : State) (v' : Vector Byte 16) (t t' : State) : Prop :=
  t' = t.withRegs t'.v ∧ ((∀ k ∈ regsWritten i, t'.getV k = t.getV k) ∨ (t.v = s.v ∧ t'.v = v'))

/-- Executions that write no register. -/
theorem SameButUnwritten.of_no_write (hv : t.v = s.v) (h : t' = t.withRegs v') : SameButUnwritten i s v' t t' := by
  subst h; exact ⟨rfl, .inr ⟨hv, rfl⟩⟩

/-- The registers an instruction is tabled to read are the same in `v'` as in the state. -/
def AgreeOnRead (i : Instr) (s : State) (v' : Vector Byte 16) : Prop :=
  ∀ k ∈ regsRead i, (s.withRegs v').getV k = s.getV k

theorem AgreeOnRead.getV (h : AgreeOnRead i s v') {k : Reg} (hk : k ∈ regsRead i) :
    (s.withRegs v').getV k = s.getV k := h k hk

theorem State.loadLowRegs_withRegs (x : Reg) (a : Nat) :
    ∃ w, (s.withRegs v').loadLowRegs x a = (s.loadLowRegs x a).withRegs w := ⟨_, rfl⟩

theorem State.lowRegs_congr {s u : State} {x : Reg} (h : ∀ k ≤ x, u.getV k = s.getV k) : u.lowRegs x = s.lowRegs x := by
  refine List.ext_getElem (by simp) fun n hn _ => ?_
  rw [lowRegs_length] at hn
  simpa [State.lowRegs, State.getV] using h ⟨n, by omega⟩ (Fin.mk_le_of_le_val (by omega))

theorem fatalCondition_withRegs (h : AgreeOnRead i s v') : fatalCondition (s.withRegs v') i = fatalCondition s i := by
  cases i with
  | skipIfPressed x | skipIfNotPressed x =>
    simp only [fatalCondition, h.getV (k := x) (by simp [regsRead])]
  | _ => rfl

/-- Two completed executions of one instruction, from states that agree on the registers it reads, differ only in registers it
did not write. -/
theorem Completes.sameButUnwritten (h : Completes s i t) (h' : Completes (s.withRegs v') i t') (hr : AgreeOnRead i s v') :
    SameButUnwritten i s v' t t' := by
  cases h with
  | clear | ret | sys | jump | call | setIndex => cases h'; exact .of_no_write rfl rfl
  | skipEqImm | skipNeqImm | skipEqReg | skipNeqReg =>
    cases h'
    simp only [AgreeOnRead, regsRead, List.mem_cons, List.not_mem_nil, or_false, forall_eq_or_imp, forall_eq] at hr
    rw [State.skipIf_withRegs]
    exact .of_no_write (by simp) (by simp only [hr])
  | jumpIndexed | setDelay | setSound | fontIndex | storeBcd =>
    cases h'
    rw [hr.getV (by simp [regsRead])]
    exact .of_no_write rfl rfl
  | storeRegs x =>
    cases h'
    rw [State.lowRegs_congr fun k hk => hr.getV (mem_regsUpTo.mpr hk)]
    exact .of_no_write rfl rfl
  | skipIfPressed x k hk =>
    cases h' with
    | skipIfPressed _ k' hk' =>
      obtain rfl : k' = k := Fin.ext (by rw [hk', hk, hr.getV (by simp [regsRead])])
      exact .of_no_write (by simp) (State.skipIf_withRegs ..)
  | skipIfNotPressed x k hk =>
    cases h' with
    | skipIfNotPressed _ k' hk' =>
      obtain rfl : k' = k := Fin.ext (by rw [hk', hk, hr.getV (by simp [regsRead])])
      exact .of_no_write (by simp) (State.skipIf_withRegs ..)
  | loadImm | random | getDelay =>
    cases h'
    exact ⟨rfl, .inl (by simp [regsWritten])⟩
  | addImm | copy | orReg | andReg | xorReg | addReg | subReg | shiftRight | subnReg | shiftLeft =>
    cases h'
    simp only [AgreeOnRead, regsRead, List.mem_cons, List.not_mem_nil, or_false, forall_eq_or_imp, forall_eq] at hr
    exact ⟨rfl, .inl (by simp [regsWritten, State.getV_setV, hr])⟩
  | addIndex x =>
    cases h'
    rw [State.withRegs_index, hr.getV (by simp [regsRead])]
    exact ⟨rfl, .inl (by simp [regsWritten])⟩
  | drawSprite x y n =>
    cases h'
    have hdrawn : (s.withRegs v').drawn x y n = s.drawn x y n := by
      simp [State.drawn, hr.getV (k := x) (by simp [regsRead]), hr.getV (k := y) (by simp [regsRead])]
    rw [hdrawn]
    exact ⟨rfl, .inl (by simp [regsWritten])⟩
  | loadRegs x =>
    cases h'
    refine ⟨?_, .inl fun k hk => ?_⟩
    · obtain ⟨w, hw⟩ := State.loadLowRegs_withRegs (s := s) (v' := v') x s.blockBase
      simp [hw]
    · have hle : k ≤ x := mem_regsUpTo.mp hk
      simp [hle]
  | waitKeyFound x k hk =>
    cases h' with
    | waitKeyFound _ k' hk' =>
      obtain rfl : k' = k := Option.some.inj (hk'.symm.trans hk)
      exact ⟨rfl, .inl (by simp [regsWritten])⟩
    | waitKeyNone _ hk' => cases hk.symm.trans hk'
  | waitKeyNone x hk =>
    cases h' with
    | waitKeyFound _ k' hk' => cases hk.symm.trans hk'
    | waitKeyNone => exact .of_no_write rfl rfl

end Agreement

/-- Settles O14: agreement on the registers read decides between fatal entry and completion alike in both executions. -/
theorem onlyTabledRegistersAreRead : Obligations.OnlyTabledRegistersAreRead := by
  intro i s t t' v' hr h h'
  have hf' := fatalCondition_withRegs (i := i) hr
  rcases exec_next_cases h with ⟨c, hf, rfl⟩ | ⟨hf, hc⟩ <;>
    rcases exec_next_cases (s := s.withRegs v') h' with ⟨c', hg, rfl⟩ | ⟨hg, hc'⟩
  · obtain rfl : c' = c := Option.some.inj (hg.symm.trans (hf'.trans hf))
    exact SameButUnwritten.of_no_write rfl rfl
  · cases hg.symm.trans (hf'.trans hf)
  · cases hg.symm.trans (hf'.trans hf)
  · exact hc.sameButUnwritten hc' hr

end Sys2Proof.Machine
end

section
/-! SUPPORT. Memory as data, and the code a step or a load leaves in it (spec 20_memory.md): canonical memories are determined by
their reads, what `load_program` does in each of its three outcomes, and a store over the next instruction. -/

namespace Sys2Proof.Machine

/-! ### The canonical form is determined by its reads (R34) -/

@[simp] theorem Memory.readByte_cons_same (a : Nat) (x : Byte) (m : Memory) : Memory.readByte ((a, x) :: m) a = x := by
  simp [Memory.readByte]

theorem Memory.readByte_cons_ne {a b : Nat} (x : Byte) (m : Memory) (h : b ≠ a) :
    Memory.readByte ((a, x) :: m) b = m.readByte b := by
  simp [Memory.readByte, h]

/-- An address below everything listed is unlisted. -/
theorem Memory.readByte_of_lt {low b : Nat} {m : Memory} (hm : Memory.wfFrom low m = true) (hb : b < low) :
    m.readByte b = Memory.unlisted b := by
  induction m generalizing low with
  | nil => rfl
  | cons c rest ih =>
    obtain ⟨a, x⟩ := c
    obtain ⟨hlow, -, -, hrest⟩ := (Memory.wfFrom_cons ..).mp hm
    rw [Memory.readByte_cons_ne x rest (by omega), ih hrest (by omega)]

/-- The first listed address is the least one that does not read as unlisted. -/
theorem Memory.head_le_of_readByte_ne {low a b : Nat} {x : Byte} {m : Memory}
    (hm : Memory.wfFrom low ((a, x) :: m) = true) (hb : Memory.readByte ((a, x) :: m) b ≠ Memory.unlisted b) : a ≤ b := by
  obtain ⟨-, ha, hx, hrest⟩ := (Memory.wfFrom_cons ..).mp hm
  have htop : Memory.wfFrom a ((a, x) :: m) = true := (Memory.wfFrom_cons ..).mpr ⟨le_rfl, ha, hx, hrest⟩
  exact not_lt.mp fun hlt => hb (Memory.readByte_of_lt htop hlt)

/-- The first listed address does not read as unlisted. -/
theorem Memory.readByte_head_ne {low a : Nat} {x : Byte} {m : Memory} (hm : Memory.wfFrom low ((a, x) :: m) = true) :
    Memory.readByte ((a, x) :: m) a ≠ Memory.unlisted a := by
  obtain ⟨-, -, hx, -⟩ := (Memory.wfFrom_cons ..).mp hm
  simpa using hx

/-- Canonical memories that read alike have one head: its address is the least that does not read as unlisted. The tails read
alike too, since the head's address is below everything they list. -/
theorem Memory.eq_of_readByte_eq {low : Nat} {m n : Memory} (hm : Memory.wfFrom low m = true)
    (hn : Memory.wfFrom low n = true) (h : ∀ a, m.readByte a = n.readByte a) : m = n := by
  induction m generalizing low n with
  | nil =>
    cases n with
    | nil => rfl
    | cons d n => exact absurd (h d.1).symm (Memory.readByte_head_ne hn)
  | cons c m ih =>
    cases n with
    | nil => exact absurd (h c.1) (Memory.readByte_head_ne hm)
    | cons d n =>
      obtain ⟨a, x⟩ := c
      obtain ⟨b, y⟩ := d
      have hab : a ≤ b := Memory.head_le_of_readByte_ne hm (h b ▸ Memory.readByte_head_ne hn)
      have hba : b ≤ a := Memory.head_le_of_readByte_ne hn (h a ▸ Memory.readByte_head_ne hm)
      obtain rfl : a = b := le_antisymm hab hba
      obtain rfl : x = y := by simpa using h a
      obtain ⟨-, -, -, hm'⟩ := (Memory.wfFrom_cons ..).mp hm
      obtain ⟨-, -, -, hn'⟩ := (Memory.wfFrom_cons ..).mp hn
      have htail : ∀ k, Memory.readByte m k = Memory.readByte n k := fun k => by
        by_cases hk : k = a
        · rw [Memory.readByte_of_lt hm' (by omega), Memory.readByte_of_lt hn' (by omega)]
        · simpa only [Memory.readByte_cons_ne _ _ hk] using h k
      rw [ih hm' hn' htail]

/-- Settles O17, from canonical memories above any least address. -/
theorem canonicalMemoryIsDeterminedByItsReads : Obligations.CanonicalMemoryIsDeterminedByItsReads :=
  fun _ _ hm hn h => Memory.eq_of_readByte_eq hm hn h

variable {s : State}

/-! ### The outcomes of `load_program` (R39) -/

theorem loadProgram_notAccepted (rom : List Byte) (h : s.run ≠ .unloaded) : loadProgram rom s = s.answer .notAccepted := by
  cases hr : s.run with
  | unloaded => exact absurd hr h
  | running | halted => simp only [loadProgram, hr]

theorem loadProgram_tooLong {rom : List Byte} (h : s.run = .unloaded) (hlen : 3584 < rom.length) :
    loadProgram rom s = s.raiseFatal .capacityExceeded := by
  simp only [loadProgram, h]
  exact if_pos hlen

theorem loadProgram_accepted {rom : List Byte} (h : s.run = .unloaded) (hlen : rom.length ≤ 3584) :
    loadProgram rom s = s.loaded rom := by
  simp only [loadProgram, h]
  exact if_neg (not_lt.mpr hlen)

theorem State.readByte_loaded_inside {rom : List Byte} {k : Nat} (hk : k < rom.length) :
    (s.loaded rom).readByte (0x200 + k) = rom.getD k 0 := by
  rw [List.getD_eq_getElem _ _ hk]
  exact Memory.readByte_writeBytes_inside s.mem hk

theorem State.readByte_loaded_outside {rom : List Byte} {a : Nat} (ha : a < 0x200 ∨ 0x200 + rom.length ≤ a) :
    (s.loaded rom).readByte a = s.readByte a :=
  Memory.readByte_writeBytes_outside s.mem ha

/-- Settles O55, one clause per outcome of a load. -/
theorem loadProgramCopiesOrRefuses : Obligations.LoadProgramCopiesOrRefuses := by
  refine fun rom s => ⟨fun h => loadProgram_notAccepted rom h, fun h hlen => loadProgram_tooLong h hlen, fun h hlen => ?_⟩
  rw [loadProgram_accepted h hlen]
  exact ⟨fun _ hk => State.readByte_loaded_inside hk, fun _ ha => State.readByte_loaded_outside ha, rfl⟩

/-! ### Stores into code (R49, R130) -/

/-- A running core that fetches a word of the table executes its instruction with the status OK, and then ends the step (R54). -/
theorem step_of_fetch {w : Word} {i : Instr} (hrun : s.run = .running) (hfetch : s.fetch = some w)
    (hdec : decodeWord w = .instr i) : step s = endStep (exec i (s.answer .ok)) := by
  simp only [step, hrun, runCycle, hfetch, executeWord, hdec]

/-- A fetch reads the two bytes at pc, high byte first (R55). -/
theorem fetch_of_readByte {a : Nat} {hi lo : Byte} (hpc : s.pc.toNat = a) (ha : a ≤ 0xFFE) (hhi : s.readByte a = hi)
    (hlo : s.readByte (a + 1) = lo) : s.fetch = some (wordOfBytes hi lo) := by
  subst hpc hhi hlo
  exact fetch_some ha

/-- FX55 with its block in the address space completes (R100, R105). -/
theorem exec_storeRegs_of_inRange {x : Reg} (h : s.blockBase + x.val ≤ 0xFFF) :
    exec (.storeRegs x) s = .next (((s.storeBytes s.blockBase (s.lowRegs x)).advanceIndex x).advance 2) := by
  have hok : s.blockOk (x.val + 1) = true := (blockInRange_iff ..).mpr (by omega)
  rcases guarded_cases (s.blockOk (x.val + 1)) .addressOutOfRange s _ with ⟨-, hdone⟩ | ⟨hbad, -⟩
  · exact hdone
  · cases hok.symm.trans hbad

/-- After V0 to VX are stored from `a` on, Vk stands at `a + k` (R100). -/
theorem State.readByte_storeBytes_lowRegs {x k : Reg} (a : Nat) (h : k ≤ x) :
    (s.storeBytes a (s.lowRegs x)).readByte (a + k.val) = s.getV k := by
  have hk : k.val < (s.lowRegs x).length := by rw [lowRegs_length]; exact Nat.lt_succ_of_le h
  rw [← lowRegs_getD s h, List.getD_eq_getElem _ _ hk]
  exact Memory.readByte_writeBytes_inside s.mem hk

/-- A step that executes FX55 with its block in the address space: the state it ends in. -/
theorem step_storeRegs {x : Reg} {w : Word} (hrun : s.run = .running) (hfetch : s.fetch = some w)
    (hdec : decodeWord w = .instr (.storeRegs x)) (h : s.blockBase + x.val ≤ 0xFFF) :
    step s = .next
      ((((s.answer .ok).storeBytes s.blockBase (s.lowRegs x)).advanceIndex x).advance 2).timerUpdate := by
  rw [step_of_fetch hrun hfetch hdec, exec_storeRegs_of_inRange (s := s.answer .ok) h, endStep_next, endOfStep_other]
  · rfl
  · simp [hrun]

/-- Settles O52: the next pc is I, where the step stored V0, and V1 stands after it. -/
theorem nextFetchSeesTheStore : Obligations.NextFetchSeesTheStore := by
  intro x w s hrun hfetch hdec hx hindex hblock
  refine ⟨_, step_storeRegs hrun hfetch hdec hblock, ?_⟩
  have hpc : (s.pc + 2).toNat = s.blockBase := congrArg BitVec.toNat hindex.symm
  have hV0 := State.readByte_storeBytes_lowRegs (s := s) s.blockBase (Fin.zero_le x)
  have hV1 := State.readByte_storeBytes_lowRegs (s := s) s.blockBase (k := 1) (Fin.le_def.mpr hx)
  exact fetch_of_readByte hpc (by omega) hV0 hV1

end Sys2Proof.Machine
end

section
/-! SUPPORT. The decoder and the encoder are inverse to each other, and the words in no encoding's image are the UNKNOWN words
(spec 30_encoding.md R52, R56, R59). -/

namespace Sys2Proof

variable {w : Word} {i : Instr} {q : Rejection}

/-! ### The decoder of a family (R56, R57) -/

theorem decodeWord_family0 (h : w.toNat / 4096 = 0x0) : decodeWord w = decodeFamily0 w := by
  simp only [decodeWord, family_toNat, h]

theorem decodeWord_family5 (h : w.toNat / 4096 = 0x5) : decodeWord w = decodeFamily5 w := by
  simp only [decodeWord, family_toNat, h]

theorem decodeWord_family8 (h : w.toNat / 4096 = 0x8) : decodeWord w = decodeFamily8 w := by
  simp only [decodeWord, family_toNat, h]

theorem decodeWord_family9 (h : w.toNat / 4096 = 0x9) : decodeWord w = decodeFamily9 w := by
  simp only [decodeWord, family_toNat, h]

theorem decodeWord_familyE (h : w.toNat / 4096 = 0xE) : decodeWord w = decodeFamilyE w := by
  simp only [decodeWord, family_toNat, h]

theorem decodeWord_familyF (h : w.toNat / 4096 = 0xF) : decodeWord w = decodeFamilyF w := by
  simp only [decodeWord, family_toNat, h]

/-! ### Encode, then decode -/

/-- The operands of `sys` are those whose word is neither of the two exact words (R56). -/
theorem sysFieldOk_iff (nnn : Addr) :
    sysFieldOk nnn = true ↔ encodeNNN 0x0 nnn ≠ 0x00E0 ∧ encodeNNN 0x0 nnn ≠ 0x00EE := by
  have hword : ∀ a : Addr, encodeNNN 0x0 nnn = encodeNNN 0x0 a ↔ nnn = a :=
    fun a => ⟨fun h => by simpa using congrArg fieldNNN h, congrArg _⟩
  rw [show (0x00E0 : Word) = encodeNNN 0x0 0x0E0 from rfl, show (0x00EE : Word) = encodeNNN 0x0 0x0EE from rfl]
  simp only [sysFieldOk, Bool.and_eq_true, bne_iff_ne, ne_eq, hword]

theorem decodeFamily0_sys {nnn : Addr} (h : sysFieldOk nnn = true) :
    decodeFamily0 (encodeNNN 0x0 nnn) = .instr (.sys nnn) := by
  obtain ⟨hclear, hret⟩ := (sysFieldOk_iff nnn).mp h
  rw [decodeFamily0, if_neg hclear, if_neg hret, fieldNNN_encodeNNN]

/-- Every field of the encoded word reads as the operand put there, so the decoder's tests find the instruction's own arm. -/
theorem decodeWord_encode (h : i.wellFormed = true) : decodeWord (encode i) = .instr i := by
  cases i with
  | clear | ret => rfl
  | sys nnn => simpa [encode, decodeWord] using decodeFamily0_sys h
  | skipEqReg x y => simp [encode, decodeWord, decodeFamily5]
  | skipNeqReg x y => simp [encode, decodeWord, decodeFamily9]
  | skipIfPressed x | skipIfNotPressed x => simp [encode, decodeWord, decodeFamilyE]
  | _ => simp [encode, decodeWord, decodeFamily8, decodeFamilyF]

/-- Settles O18, for the word; its two bytes make the word up again. -/
theorem decodeOfEncodeIsTheInstruction : Obligations.DecodeOfEncodeIsTheInstruction := fun i h =>
  ⟨decodeWord_encode h, (decodeBytes_bytesOfWord (encode i)).trans (decodeWord_encode h)⟩

/-! ### The word from its fields -/

theorem encodeNNN_of_family {f : BitVec 4} (h : (family w).toNat = f.toNat) : encodeNNN f (fieldNNN w) = w := by
  apply BitVec.eq_of_toNat_eq
  rw [encodeNNN_toNat, fieldNNN_toNat, ← h, family_toNat]; omega

theorem encodeXNN_of_fields {f : BitVec 4} {nn : Byte} (h : (family w).toNat = f.toNat)
    (hnn : (fieldNN w).toNat = nn.toNat) : encodeXNN f (fieldX w) nn = w := by
  apply BitVec.eq_of_toNat_eq
  rw [encodeXNN_toNat, fieldX_val, ← hnn, fieldNN_toNat, ← h, family_toNat]; omega

theorem encodeXYN_of_fields {f : BitVec 4} {n : Fin 16} (h : (family w).toNat = f.toNat)
    (hn : (fieldN w).val = n.val) : encodeXYN f (fieldX w) (fieldY w) n = w := by
  apply BitVec.eq_of_toNat_eq
  rw [encodeXYN_toNat, fieldX_val, fieldY_val, ← hn, fieldN_val, ← h, family_toNat]; omega

/-! ### Decode, then encode -/

/-- The pattern of R59 that a rejection names, on the number of a word; no word is truncated. -/
def UnknownAs (n : Nat) : Rejection → Prop
  | .unknown5XYN => n / 4096 = 0x5 ∧ n % 16 ≠ 0
  | .unknown8XYN => n / 4096 = 0x8 ∧ n % 16 ∈ [0x8, 0x9, 0xA, 0xB, 0xC, 0xD, 0xF]
  | .unknown9XYN => n / 4096 = 0x9 ∧ n % 16 ≠ 0
  | .unknownEXSS => n / 4096 = 0xE ∧ n % 256 ∉ [0x9E, 0xA1]
  | .unknownFXSS => n / 4096 = 0xF ∧ n % 256 ∉ [0x07, 0x0A, 0x15, 0x18, 0x1E, 0x29, 0x33, 0x55, 0x65]
  | .truncated => False

/-- An answer that is right for the word: an instruction that encodes to it, or a rejection whose pattern it has. -/
def AnswerFits (w : Word) : Decoded → Prop
  | .instr i => i.wellFormed = true ∧ encode i = w
  | .rejected q => UnknownAs w.toNat q

theorem answerFits_family0 (h : (family w).toNat = 0x0) : AnswerFits w (decodeFamily0 w) := by
  unfold decodeFamily0
  split
  next hclear => exact ⟨rfl, hclear.symm⟩
  next hclear =>
    split
    next hret => exact ⟨rfl, hret.symm⟩
    next hret =>
      have hword : encodeNNN 0x0 (fieldNNN w) = w := encodeNNN_of_family h
      exact ⟨(sysFieldOk_iff _).mpr (by rw [hword]; exact ⟨hclear, hret⟩), hword⟩

theorem answerFits_family5 (h : (family w).toNat = 0x5) : AnswerFits w (decodeFamily5 w) := by
  unfold decodeFamily5
  split
  next hn => exact ⟨rfl, encodeXYN_of_fields h (congrArg Fin.val hn)⟩
  next hn => exact ⟨(family_toNat w).symm.trans h, fun hw => hn (Fin.ext ((fieldN_val w).trans hw))⟩

theorem answerFits_family8 (h : (family w).toNat = 0x8) : AnswerFits w (decodeFamily8 w) := by
  unfold decodeFamily8
  split
  case h_10 =>
    refine ⟨(family_toNat w).symm.trans h, ?_⟩
    simp only [← fieldN_val, List.mem_cons, List.not_mem_nil, or_false]
    grind
  all_goals exact ⟨rfl, encodeXYN_of_fields h ‹_›⟩

theorem answerFits_family9 (h : (family w).toNat = 0x9) : AnswerFits w (decodeFamily9 w) := by
  unfold decodeFamily9
  split
  next hn => exact ⟨rfl, encodeXYN_of_fields h (congrArg Fin.val hn)⟩
  next hn => exact ⟨(family_toNat w).symm.trans h, fun hw => hn (Fin.ext ((fieldN_val w).trans hw))⟩

theorem answerFits_familyE (h : (family w).toNat = 0xE) : AnswerFits w (decodeFamilyE w) := by
  unfold decodeFamilyE
  split
  case h_3 =>
    refine ⟨(family_toNat w).symm.trans h, ?_⟩
    simp only [← fieldNN_toNat, List.mem_cons, List.not_mem_nil, or_false]
    grind
  all_goals exact ⟨rfl, encodeXNN_of_fields h ‹_›⟩

theorem answerFits_familyF (h : (family w).toNat = 0xF) : AnswerFits w (decodeFamilyF w) := by
  unfold decodeFamilyF
  split
  case h_10 =>
    refine ⟨(family_toNat w).symm.trans h, ?_⟩
    simp only [← fieldNN_toNat, List.mem_cons, List.not_mem_nil, or_false]
    grind
  all_goals exact ⟨rfl, encodeXNN_of_fields h ‹_›⟩

/-- What the decoder answers is right for every word, family by family. -/
theorem answerFits_decodeWord (w : Word) : AnswerFits w (decodeWord w) := by
  unfold decodeWord
  split
  case h_1 h => exact answerFits_family0 h
  case h_6 h => exact answerFits_family5 h
  case h_9 h => exact answerFits_family8 h
  case h_10 h => exact answerFits_family9 h
  case h_15 h => exact answerFits_familyE h
  case h_16 =>
    have := (family w).isLt
    exact answerFits_familyF (by grind)
  case h_2 h | h_3 h | h_11 h | h_12 h => exact ⟨rfl, encodeNNN_of_family h⟩
  case h_4 h | h_5 h | h_7 h | h_8 h | h_13 h => exact ⟨rfl, encodeXNN_of_fields h rfl⟩
  case h_14 h => exact ⟨rfl, encodeXYN_of_fields h rfl⟩

/-- Settles O19: it is what a right answer says of an instruction. -/
theorem encodeOfDecodeIsTheWord : Obligations.EncodeOfDecodeIsTheWord := by
  intro w i h
  have hfits := answerFits_decodeWord w
  rwa [h] at hfits

/-! ### The UNKNOWN words (R59) -/

/-- A word that has a pattern of R59 is rejected under the pattern's name. -/
theorem decodeWord_of_unknownAs (h : UnknownAs w.toNat q) : decodeWord w = .rejected q := by
  cases q with
  | unknown5XYN =>
    obtain ⟨hfamily, hn⟩ := h
    rw [decodeWord_family5 hfamily, decodeFamily5, if_neg fun h0 => hn (by rw [← fieldN_val, h0]; rfl)]
  | unknown8XYN =>
    obtain ⟨hfamily, hn⟩ := h
    rw [← fieldN_val] at hn
    rw [decodeWord_family8 hfamily, decodeFamily8]
    split <;> simp_all
  | unknown9XYN =>
    obtain ⟨hfamily, hn⟩ := h
    rw [decodeWord_family9 hfamily, decodeFamily9, if_neg fun h0 => hn (by rw [← fieldN_val, h0]; rfl)]
  | unknownEXSS =>
    obtain ⟨hfamily, hnn⟩ := h
    rw [← fieldNN_toNat] at hnn
    rw [decodeWord_familyE hfamily, decodeFamilyE]
    split <;> simp_all
  | unknownFXSS =>
    obtain ⟨hfamily, hnn⟩ := h
    rw [← fieldNN_toNat] at hnn
    rw [decodeWord_familyF hfamily, decodeFamilyF]
    split <;> simp_all
  | truncated => exact h.elim

theorem decodeWord_eq_rejected_iff : decodeWord w = .rejected q ↔ UnknownAs w.toNat q := by
  refine ⟨fun h => ?_, decodeWord_of_unknownAs⟩
  have hfits := answerFits_decodeWord w
  rwa [h] at hfits

/-- Settles O20, one pattern per name. -/
theorem unknownWordsAreExactlyThePatterns : Obligations.UnknownWordsAreExactlyThePatterns := fun _ =>
  ⟨decodeWord_eq_rejected_iff, decodeWord_eq_rejected_iff, decodeWord_eq_rejected_iff, decodeWord_eq_rejected_iff,
    decodeWord_eq_rejected_iff, decodeWord_eq_rejected_iff.not.mpr id⟩

/-! ### Written-out words -/

/-- Settles O23: each word is a literal, so the decoder evaluates on it. -/
theorem sampleWordsDecodeAsTabled : Obligations.SampleWordsDecodeAsTabled := by
  unfold Obligations.SampleWordsDecodeAsTabled
  decide

end Sys2Proof
end

section
/-! SUPPORT. The rows of the opcode table that a word fits (spec 30_encoding.md R56): at most one, the row of the instruction the
word decodes to, and none when the word is UNKNOWN. -/

namespace Sys2Proof

variable {w : Word} {i : Instr} {q : Rejection} {r r' : TableRow}

/-! ### The bits a row fixes -/

/-- On bits of its mask, a word that fits a row is the row's match. -/
theorem TableRow.and_eq_of_fits {m : Word} (h : r.fits w = true) (hm : r.mask &&& m = m) :
    w &&& m = r.pattern &&& m := by
  rw [← beq_iff_eq.mp h, BitVec.and_assoc, hm]

/-- Two rows that one word fits agree on the bits of both masks. -/
theorem TableRow.agree_of_fits (h : r.fits w = true) (h' : r'.fits w = true) :
    r.pattern &&& r'.mask = r'.pattern &&& r.mask := by
  rw [← beq_iff_eq.mp h, ← beq_iff_eq.mp h', BitVec.and_assoc, BitVec.and_assoc, BitVec.and_comm r.mask]

/-- A row that fixes the low nibble: its words have the low nibble of its match. -/
theorem TableRow.low_nibble_of_fits (h : r.fits w = true) (hm : r.mask &&& 0xF = 0xF) :
    w.toNat % 16 = r.pattern.toNat % 16 := by
  have hmod : ∀ u : Word, (u &&& 0xF).toNat = u.toNat % 16 := fun u => Nat.and_two_pow_sub_one_eq_mod u.toNat 4
  rw [← hmod, ← hmod, and_eq_of_fits h hm]

/-- A row that fixes the low byte: its words have the low byte of its match. -/
theorem TableRow.low_byte_of_fits (h : r.fits w = true) (hm : r.mask &&& 0xFF = 0xFF) :
    w.toNat % 256 = r.pattern.toNat % 256 := by
  have hmod : ∀ u : Word, (u &&& 0xFF).toNat = u.toNat % 256 := fun u => Nat.and_two_pow_sub_one_eq_mod u.toNat 8
  rw [← hmod, ← hmod, and_eq_of_fits h hm]

/-! ### The table -/

theorem mask_family_of_mem : ∀ r ∈ opcodeTable, r.mask &&& 0xF000 = 0xF000 := by decide

theorem mask_low_nibble_of_family :
    ∀ r ∈ matchedRows, r.pattern.toNat / 4096 ∈ [0x5, 0x8, 0x9] → r.mask &&& 0xF = 0xF := by decide

theorem mask_low_byte_of_family :
    ∀ r ∈ matchedRows, r.pattern.toNat / 4096 ∈ [0xE, 0xF] → r.mask &&& 0xFF = 0xFF := by decide

theorem mem_matchedRows_of_family : ∀ r ∈ opcodeTable, r.pattern.toNat / 4096 ≠ 0 → r ∈ matchedRows := by decide

theorem eq_of_patterns_agree :
    ∀ r ∈ matchedRows, ∀ r' ∈ matchedRows, r.pattern &&& r'.mask = r'.pattern &&& r.mask → r = r' := by decide

theorem decodeWord_pattern_ne_rejected (q : Rejection) : ∀ r ∈ matchedRows, decodeWord r.pattern ≠ .rejected q := by
  cases q <;> decide

/-- Every row fixes the family: its words are of the family of its match. -/
theorem TableRow.family_of_fits (hr : r ∈ opcodeTable) (h : r.fits w = true) :
    w.toNat / 4096 = r.pattern.toNat / 4096 := by
  have hand := congrArg BitVec.toNat (and_eq_of_fits h (mask_family_of_mem r hr))
  simp only [and_mask_family, append_toNat, family_toNat] at hand
  omega

/-! ### The one row that fits -/

/-- No word fits two rows (R56). -/
theorem eq_of_fits (hr : r ∈ matchedRows) (hr' : r' ∈ matchedRows) (h : r.fits w = true) (h' : r'.fits w = true) :
    r = r' :=
  eq_of_patterns_agree r hr r' hr' (TableRow.agree_of_fits h h')

/-- No row fits an UNKNOWN word: the row's match, which has the same family and low bits, would be UNKNOWN too. -/
theorem not_unknownAs_of_fits (hr : r ∈ matchedRows) (h : r.fits w = true) : ¬UnknownAs w.toNat q := by
  intro hq
  have hfamily := TableRow.family_of_fits (List.mem_append_right _ hr) h
  have hnibble := fun hrow => TableRow.low_nibble_of_fits h (mask_low_nibble_of_family r hr hrow)
  have hbyte := fun hrow => TableRow.low_byte_of_fits h (mask_low_byte_of_family r hr hrow)
  rw [← hfamily] at hnibble hbyte
  refine decodeWord_pattern_ne_rejected q r hr (decodeWord_of_unknownAs ?_)
  cases q with
  | unknown5XYN | unknown8XYN | unknown9XYN =>
    obtain ⟨hf, hlow⟩ := hq
    exact ⟨hfamily ▸ hf, hnibble (by simp [hf]) ▸ hlow⟩
  | unknownEXSS | unknownFXSS =>
    obtain ⟨hf, hlow⟩ := hq
    exact ⟨hfamily ▸ hf, hbyte (by simp [hf]) ▸ hlow⟩
  | truncated => exact hq

theorem rowOf_mem_opcodeTable (i : Instr) : rowOf i ∈ opcodeTable := by
  cases i <;> simp [opcodeTable, matchedRows, rowOf]

open Laws.TableRow in
theorem rowOf_fits_encode : ∀ i : Instr, (rowOf i).fits (encode i) = true
  | .clear => clear
  | .ret => ret
  | .sys nnn => sys nnn
  | .jump nnn => jump nnn
  | .call nnn => call nnn
  | .skipEqImm x nn => skipEqImm x nn
  | .skipNeqImm x nn => skipNeqImm x nn
  | .skipEqReg x y => skipEqReg x y
  | .loadImm x nn => loadImm x nn
  | .addImm x nn => addImm x nn
  | .copy x y => copy x y
  | .orReg x y => orReg x y
  | .andReg x y => andReg x y
  | .xorReg x y => xorReg x y
  | .addReg x y => addReg x y
  | .subReg x y => subReg x y
  | .shiftRight x y => shiftRight x y
  | .subnReg x y => subnReg x y
  | .shiftLeft x y => shiftLeft x y
  | .skipNeqReg x y => skipNeqReg x y
  | .setIndex nnn => setIndex nnn
  | .jumpIndexed nnn => jumpIndexed nnn
  | .random x nn => random x nn
  | .drawSprite x y n => drawSprite x y n
  | .skipIfPressed x => skipIfPressed x
  | .skipIfNotPressed x => skipIfNotPressed x
  | .getDelay x => getDelay x
  | .waitKey x => waitKey x
  | .setDelay x => setDelay x
  | .setSound x => setSound x
  | .addIndex x => addIndex x
  | .fontIndex x => fontIndex x
  | .storeBcd x => storeBcd x
  | .storeRegs x => storeRegs x
  | .loadRegs x => loadRegs x

/-- A word that decodes to an instruction fits the instruction's row. -/
theorem rowOf_fits_of_decodeWord (h : decodeWord w = .instr i) : (rowOf i).fits w = true := by
  obtain ⟨-, rfl⟩ := encodeOfDecodeIsTheWord w i h
  exact rowOf_fits_encode i

/-- Outside family 0, the row of the decoded instruction is one of R56 step 3. -/
theorem rowOf_mem_matchedRows (hw : w.toNat / 4096 ≠ 0) (h : decodeWord w = .instr i) : rowOf i ∈ matchedRows := by
  have hmem := rowOf_mem_opcodeTable i
  have hfamily := TableRow.family_of_fits hmem (rowOf_fits_of_decodeWord h)
  exact mem_matchedRows_of_family _ hmem (hfamily ▸ hw)

/-! ### The steps of R56 -/

theorem decodeWord_eq_sys (hclear : w ≠ 0x00E0) (hret : w ≠ 0x00EE) (hw : w.toNat / 4096 = 0) :
    decodeWord w = .instr (.sys (fieldNNN w)) := by
  rw [decodeWord_family0 hw, decodeFamily0, if_neg hclear, if_neg hret]

theorem exists_instr_of_fits (hw : w.toNat / 4096 ≠ 0) (hr : r ∈ matchedRows) (h : r.fits w = true) :
    ∃ i, decodeWord w = .instr i ∧ rowOf i = r := by
  cases hdec : decodeWord w with
  | instr i => exact ⟨i, rfl, eq_of_fits (rowOf_mem_matchedRows hw hdec) hr (rowOf_fits_of_decodeWord hdec) h⟩
  | rejected q => exact absurd (decodeWord_eq_rejected_iff.mp hdec) (not_unknownAs_of_fits hr h)

theorem exists_rejection_of_no_fit (hw : w.toNat / 4096 ≠ 0) (h : ∀ r ∈ matchedRows, r.fits w = false) :
    ∃ q, decodeWord w = .rejected q := by
  cases hdec : decodeWord w with
  | instr i =>
    have hnot := h _ (rowOf_mem_matchedRows hw hdec)
    rw [rowOf_fits_of_decodeWord hdec] at hnot
    cases hnot
  | rejected q => exact ⟨q, rfl⟩

/-- Settles O21, one clause per step of R56. -/
theorem decodePicksTheOneRowThatFits : Obligations.DecodePicksTheOneRowThatFits :=
  ⟨⟨rfl, rfl⟩, fun _ hclear hret hw => ⟨_, decodeWord_eq_sys hclear hret hw⟩,
    fun _ _ hw hr h => exists_instr_of_fits hw hr h, fun _ hw h => exists_rejection_of_no_fit hw h,
    fun _ _ _ hr hr' h h' => eq_of_fits hr hr' h h'⟩

end Sys2Proof
end

section
/-! SUPPORT. How many words decode to what (spec 30_encoding.md R58), counted from the patterns of R56 and R59: a family and a set
of low parts leave the bits between them free. -/

namespace Sys2Proof.Machine

/-! ### Counting numbers -/

theorem count_congr_of_lt {p q : Nat → Prop} [DecidablePred p] [DecidablePred q] {n : Nat}
    (h : ∀ k < n, (p k ↔ q k)) : Nat.count p n = Nat.count q n :=
  le_antisymm (Nat.count_mono_left fun k hk => (h k hk).mp) (Nat.count_mono_left fun k hk => (h k hk).mpr)

/-- Below `k * m`, a condition on the quotient by `m` and one on the remainder are met independently. -/
theorem count_div_mod (p q : Nat → Prop) [DecidablePred p] [DecidablePred q] (m k : Nat) :
    Nat.count (fun n => p (n / m) ∧ q (n % m)) (k * m) = Nat.count p k * Nat.count q m := by
  induction k with
  | zero => simp
  | succ k ih =>
    have hpair : ∀ j < m, (p ((k * m + j) / m) ∧ q ((k * m + j) % m) ↔ p k ∧ q j) := fun j hj => by
      rw [Nat.mul_comm, Nat.mul_add_mod, Nat.mul_add_div (by omega), Nat.mod_eq_of_lt hj, Nat.div_eq_of_lt hj,
        Nat.add_zero]
    have hblock : Nat.count (fun j => p ((k * m + j) / m) ∧ q ((k * m + j) % m)) m =
        (if p k then 1 else 0) * Nat.count q m := by
      rw [count_congr_of_lt hpair]
      by_cases hp : p k <;> simp [hp]
    rw [Nat.succ_mul, Nat.count_add, ih, hblock, Nat.count_succ, Nat.add_mul]

/-- A family has, for each low part modulo `m`, as many words as there are blocks of `m` numbers in 4096. -/
theorem count_family_low (f m k : Nat) (hm : m * k = 4096) (q : Nat → Prop) [DecidablePred q] :
    Nat.count (fun n => n / 4096 = f ∧ q (n % m)) 65536 = Nat.count (· = f) 16 * k * Nat.count q m := by
  have hfamily : Nat.count (fun n => n / k = f) (16 * k) = Nat.count (· = f) 16 * k := by
    simpa only [and_true, Nat.count_true] using count_div_mod (· = f) (fun _ => True) k 16
  have hwords : 16 * k * m = 65536 := by rw [Nat.mul_assoc, Nat.mul_comm k, hm]
  rw [← hfamily, ← count_div_mod, hwords]
  simp only [Nat.div_div_eq_div_mul, hm]

theorem count_ne_ne {a b n : Nat} (ha : a < n) (hb : b < n) (hab : b ≠ a) :
    Nat.count (fun k => k ≠ a ∧ k ≠ b) n = n - 2 := by
  rw [Nat.count_eq_card_filter_range, ← Finset.filter_filter, Finset.filter_ne', Finset.filter_ne',
    Finset.card_erase_of_mem (Finset.mem_erase.mpr ⟨hab, Finset.mem_range.mpr hb⟩),
    Finset.card_erase_of_mem (Finset.mem_range.mpr ha), Finset.card_range, Nat.sub_sub]

/-! ### Counting words -/

variable {p : Decoded → Bool} {P : Nat → Prop} [DecidablePred P] {q : Rejection}

theorem countWords_eq_count (h : ∀ w : Word, p (decodeWord w) = true ↔ P w.toNat) :
    countWords p = Nat.count P 65536 := by
  refine List.countP_congr fun n hn => ?_
  rw [h, BitVec.toNat_ofNat, Nat.mod_eq_of_lt (List.mem_range.mp hn), decide_eq_true_iff]

/-- Counts add up over a distinction of cases of which each answer counted meets one, and no other answer any. -/
theorem countWords_sum {ι : Type} {c : ι → Decoded → Bool} (ks : List ι)
    (h : ∀ d, (p d).toNat = (ks.map fun k => (c k d).toNat).sum) :
    countWords p = (ks.map fun k => countWords (c k)).sum := by
  have hone : ∀ b : Bool, (if b = true then 1 else 0) = b.toNat := by decide
  unfold countWords
  induction List.range 65536 with
  | nil => simp
  | cons n l ih => simp only [List.countP_cons, hone, h, ih, List.sum_map_add]

/-- A rejection that names a family and low parts takes as many words as `count_family_low` counts. -/
theorem countWords_rejected_of_low (f m k : Nat) (hm : m * k = 4096)
    (h : ∀ n, UnknownAs n q ↔ n / 4096 = f ∧ P (n % m)) :
    countWords (· == .rejected q) = Nat.count (· = f) 16 * k * Nat.count P m := by
  rw [← count_family_low f m k hm]
  exact countWords_eq_count fun w => by rw [beq_iff_eq, decodeWord_eq_rejected_iff, h]

/-- How many words each rejection takes: with X and Y free, each low nibble of no instruction 256; with X free, each low byte
of none 16. -/
def unknownCount : Rejection → Nat
  | .unknown5XYN => 256 * 15
  | .unknown8XYN => 256 * 7
  | .unknown9XYN => 256 * 15
  | .unknownEXSS => 16 * 254
  | .unknownFXSS => 16 * 247
  | .truncated => 0

theorem countWords_rejected (q : Rejection) : countWords (· == .rejected q) = unknownCount q := by
  cases q with
  | unknown5XYN | unknown9XYN =>
    exact (countWords_rejected_of_low (P := (· ≠ 0)) _ 16 256 rfl fun _ => Iff.rfl).trans (by decide)
  | unknown8XYN =>
    exact (countWords_rejected_of_low (P := (· ∈ [0x8, 0x9, 0xA, 0xB, 0xC, 0xD, 0xF])) _ 16 256 rfl
      fun _ => Iff.rfl).trans (by decide)
  | unknownEXSS =>
    exact (countWords_rejected_of_low (P := (· ∉ [0x9E, 0xA1])) _ 256 16 rfl fun _ => Iff.rfl).trans
      (by decide +kernel)
  | unknownFXSS =>
    exact (countWords_rejected_of_low (P := (· ∉ [0x07, 0x0A, 0x15, 0x18, 0x1E, 0x29, 0x33, 0x55, 0x65])) _ 256 16 rfl
      fun _ => Iff.rfl).trans (by decide +kernel)
  | truncated =>
    have hnone : ∀ w : Word, (decodeWord w == .rejected .truncated) = true ↔ False := fun w => by
      rw [beq_iff_eq, decodeWord_eq_rejected_iff, UnknownAs]
    exact (countWords_eq_count (P := fun _ => False) hnone).trans (Nat.count_false _)

theorem countWords_unknown (h : ∀ d, p d = true ↔ ∃ q, d = .rejected q) : countWords p = 17488 := by
  have hcases : ∀ d, (p d).toNat = ([Rejection.unknown5XYN, .unknown8XYN, .unknown9XYN, .unknownEXSS, .unknownFXSS,
      .truncated].map fun q => (d == .rejected q).toNat).sum := fun d => by
    cases d with
    | instr i => rw [show p (.instr i) = false by simpa using h (.instr i)]; rfl
    | rejected q => rw [(h _).mpr ⟨q, rfl⟩]; cases q <;> rfl
  rw [countWords_sum _ hcases]
  simp only [countWords_rejected]
  rfl

/-- The words of `sys` are those of family 0 but the two exact ones (R56). -/
theorem exists_decodeWord_eq_sys_iff {w : Word} : (∃ nnn, decodeWord w = .instr (.sys nnn)) ↔
    w.toNat / 4096 = 0 ∧ w ≠ 0x00E0 ∧ w ≠ 0x00EE := by
  constructor
  · rintro ⟨nnn, h⟩
    obtain ⟨hok, rfl⟩ := encodeOfDecodeIsTheWord _ _ h
    have hfamily : family (encode (.sys nnn)) = 0x0 := family_encodeNNN 0x0 nnn
    exact ⟨by rw [← family_toNat, hfamily]; rfl, (sysFieldOk_iff nnn).mp hok⟩
  · rintro ⟨hfamily, hclear, hret⟩
    exact ⟨_, decodeWord_eq_sys hclear hret hfamily⟩

theorem countWords_sys (h : ∀ d, p d = true ↔ ∃ nnn, d = .instr (.sys nnn)) : countWords p = 4094 := by
  rw [countWords_eq_count (P := fun n => n / 4096 = 0 ∧ n % 4096 ≠ 0x0E0 ∧ n % 4096 ≠ 0x0EE) fun w => by
      rw [h, exists_decodeWord_eq_sys_iff]; bv_omega,
    count_family_low 0 4096 1 rfl fun n => n ≠ 0x0E0 ∧ n ≠ 0x0EE, count_ne_ne (by decide) (by decide) (by decide)]
  rfl

/-- Three conditions of which each answer meets exactly one take all 65536 words together. -/
theorem countWords_partition {a b c : Decoded → Bool} (h : ∀ d, (a d).toNat + (b d).toNat + (c d).toNat = 1) :
    countWords a + countWords b + countWords c = 65536 := by
  have hsum := countWords_sum (p := fun _ => true) (c := id) [a, b, c] fun d => by
    simpa [Nat.add_assoc] using (h d).symm
  have hall : countWords (fun _ => true) = 65536 := by simp [countWords]
  simpa [hall, Nat.add_assoc] using hsum.symm

/-- The counts of R58, for three conditions that say what they are named for: the third case is neither of the other two. -/
theorem wordCounts {source sys unknown : Decoded → Bool} (hsys : ∀ d, sys d = true ↔ ∃ nnn, d = .instr (.sys nnn))
    (hunknown : ∀ d, unknown d = true ↔ ∃ q, d = .rejected q)
    (hone : ∀ d, (source d).toNat + (sys d).toNat + (unknown d).toNat = 1) :
    countWords source = 43954 ∧ countWords sys = 4094 ∧ countWords unknown = 17488 := by
  have hs := countWords_sys hsys
  have hu := countWords_unknown hunknown
  have hall := countWords_partition hone
  exact ⟨by omega, hs, hu⟩

/-- Settles O22, by counting `sys` and the UNKNOWN words; the source rows' words are the rest. -/
theorem wordCountsAgreeWithTheSpec : Obligations.WordCountsAgreeWithTheSpec := by
  refine wordCounts ?_ ?_ ?_
  · rintro ((_ | _) | _) <;> simp
  · rintro (_ | _) <;> simp
  · rintro ((_ | _) | _) <;> rfl

end Sys2Proof.Machine
end

section
/-! SUPPORT. The step's fetch, and its passing over a word that is no instruction (spec 30_encoding.md R55, R60). -/

namespace Sys2Proof.Machine

variable {s : State} {w : Word} {q : Rejection}

/-- A step that fetches a word of no instruction reports it, passes over it, and updates the timers (R54, R60). -/
theorem step_of_fetch_rejected (hrun : s.run = .running) (hfetch : s.fetch = some w)
    (hdec : decodeWord w = .rejected q) : step s = .next (((s.answer .ok).passOver w).timerUpdate) := by
  have hexec : executeWord w (s.answer .ok) = .next ((s.answer .ok).passOver w) := by
    simp only [executeWord, hdec, execUnknown]
  simp only [step, hrun, runCycle, hfetch, hexec, endStep_next]
  rw [endOfStep_other]
  simp [hrun]

/-- Settles O8. -/
theorem stepPassesOverAnUnknownWord : Obligations.StepPassesOverAnUnknownWord :=
  fun _ _ _ hrun hfetch hdec => step_of_fetch_rejected hrun hfetch hdec

theorem step_of_pc_out_of_range (hrun : s.run = .running) (hpc : 0xFFE < s.pc.toNat) :
    step s = .next (s.raiseFatal .addressOutOfRange) := by
  rcases step_running hrun with ⟨-, hstep⟩ | ⟨hle, -⟩
  · exact hstep
  · omega

/-- Settles O9, on either side of the bound of R55. -/
theorem fetchReadsTheWordOrIsFatal : Obligations.FetchReadsTheWordOrIsFatal := fun _ =>
  ⟨fun hpc => ⟨_, fetch_some hpc, wordOfBytes_toNat ..⟩,
    fun hpc => ⟨fetch_none hpc, fun hrun => ⟨_, step_of_pc_out_of_range hrun hpc, rfl⟩⟩⟩

end Sys2Proof.Machine
end

section
/-! SUPPORT. Family 0 (spec 40_family0.md R64-R66), and the stack as `call` and `return` share it (R65, R68). -/

namespace Sys2Proof.Machine

variable {s : State} {i : Instr}

/-- A well-formed instruction has the encoding of its row of the opcode table (R12, R52). -/
theorem encodedAs_rowOf (h : i.wellFormed = true) : EncodedAs i (rowOf i).pattern (rowOf i).mask :=
  ⟨Laws.TableRow.encode_and_mask (rowOf_fits_encode i), decodeWord_encode h⟩

/-! ### The stack (R65, R68) -/

theorem exec_call_of_room (nnn : Addr) (room : s.sp.val < 16) :
    exec (.call nnn) s = .next ((s.push room s.pc).setPc (zext16 nnn)) :=
  dif_pos room

theorem exec_ret_of_sp_eq_succ {k : Fin 16} (hsp : s.sp.val = k.val + 1) :
    exec .ret s = .next { s with sp := k.castSucc, pc := s.stack[k] + 2 } := by
  have used : 0 < s.sp.val := by omega
  have hpop : s.pop used = { s with sp := k.castSucc } := by simp [State.pop, hsp, Fin.ext_iff]
  have htop : s.top used = s.stack[k] := by simp [State.top, hsp]
  calc exec .ret s
    _ = .next ((s.pop used).setPc (s.top used + 2)) := dif_pos used
    _ = .next { s with sp := k.castSucc, pc := s.stack[k] + 2 } := by rw [hpop, htop]; rfl

theorem exec_ret_of_sp_eq_zero (hsp : s.sp.val = 0) : exec .ret s = .next (s.raiseFatal .stackUnderflow) :=
  dif_neg (by omega)

/-- Settles O29: the entry that the return pops is the one that the call wrote, at the call's SP. -/
theorem callThenReturnComesBack : Obligations.CallThenReturnComesBack := by
  intro nnn s room
  refine ⟨_, exec_call_of_room nnn room, fun u hsp hstack => ?_⟩
  have husp : u.sp.val = s.sp.val + 1 := congrArg Fin.val hsp
  have htop : u.stack[s.sp.val] = s.pc := by simp [hstack]
  exact ⟨_, exec_ret_of_sp_eq_succ (k := ⟨s.sp.val, room⟩) husp, congrArg (· + 2) htop, rfl, rfl⟩

/-- Settles O25, with an entry on the stack and with none. -/
theorem returnResumesAfterTheCallSite : Obligations.ReturnResumesAfterTheCallSite :=
  ⟨encodedAs_rowOf rfl, fun _ =>
    ⟨fun _ hsp => ⟨_, exec_ret_of_sp_eq_succ hsp, rfl, rfl, rfl⟩, fun hsp => ⟨_, exec_ret_of_sp_eq_zero hsp, rfl⟩⟩⟩

/-! ### Clear and sys (R64, R66) -/

/-- Settles O24. -/
theorem clearBlanksTheScreen : Obligations.ClearBlanksTheScreen :=
  ⟨encodedAs_rowOf rfl, fun _ => ⟨_, rfl, blankFb_pixel, rfl, rfl, rfl⟩⟩

theorem sysFieldOk_of_ne {nnn : Addr} (hclear : nnn ≠ 0x0E0) (hret : nnn ≠ 0x0EE) : sysFieldOk nnn = true := by
  rw [sysFieldOk, Bool.and_eq_true, bne_iff_ne, bne_iff_ne]
  exact ⟨hclear, hret⟩

theorem encode_sys_toNat (nnn : Addr) : (encode (.sys nnn)).toNat = nnn.toNat := by
  simp [encode, encodeNNN_toNat]

/-- Settles O26: the reported word is the encoding of `sys` itself, whose family is 0. -/
theorem sysReportsItsWord : Obligations.SysReportsItsWord :=
  ⟨fun _ hclear hret => encodedAs_rowOf (sysFieldOk_of_ne hclear hret), fun nnn _ =>
    ⟨_, encode (.sys nnn), rfl, encode_sys_toNat nnn, rfl⟩⟩

end Sys2Proof.Machine
end

section
/-! SUPPORT. Families 1 to 7 and 9 (spec 41_flow_and_immediate.md R67-R73, 43_skip_index_random.md R84): jump, call, the skips on
register values, the immediates. -/

namespace Sys2Proof.Machine

variable {s : State}

/-! ### Jump and call (R67, R68) -/

/-- Settles O27. -/
theorem jumpSetsPc : Obligations.JumpSetsPc :=
  ⟨fun _ => encodedAs_rowOf rfl, fun nnn _ => ⟨_, rfl, zext16_toNat nnn, rfl⟩⟩

theorem State.push_stack_same {k : Fin 16} (room : s.sp.val < 16) (a : Word) (hsp : s.sp.val = k.val) :
    (s.push room a).stack[k] = a := by
  simp [hsp]

theorem State.push_stack_ne {j k : Fin 16} (room : s.sp.val < 16) (a : Word) (hsp : s.sp.val = k.val) (hj : j ≠ k) :
    (s.push room a).stack[j] = s.stack[j] :=
  Vector.getElem_set_ne room j.isLt fun h => hj (Fin.ext (h.symm.trans hsp))

theorem exec_call_of_sp_eq_16 (nnn : Addr) (hsp : s.sp.val = 16) :
    exec (.call nnn) s = .next (s.raiseFatal .stackOverflow) :=
  dif_neg (by omega)

/-- Settles O28, with room on the stack and with none. -/
theorem callPushesItsOwnAddress : Obligations.CallPushesItsOwnAddress := by
  refine ⟨fun _ => encodedAs_rowOf rfl, fun nnn s =>
    ⟨fun k hsp => ?_, fun hsp => ⟨_, exec_call_of_sp_eq_16 nnn hsp, rfl⟩⟩⟩
  have room : s.sp.val < 16 := by omega
  exact ⟨_, exec_call_of_room nnn room, State.push_stack_same room _ hsp, fun _ hj => State.push_stack_ne room _ hsp hj,
    congrArg (· + 1) hsp, zext16_toNat nnn, rfl⟩

/-! ### The skips (R69-R71, R84) -/

/-- A skip on a test that decides the condition. -/
theorem State.skipIf_skipsWhen {condition : Prop} {taken : Bool} (h : taken = true ↔ condition) :
    SkipsWhen condition s (s.skipIf taken) := by
  rw [State.skipIf_eq]
  exact ⟨fun hc => by rw [State.setPc_pc, if_pos (h.mpr hc)],
    fun hc => by rw [State.setPc_pc, if_neg (h.not.mpr hc)], rfl⟩

/-- Settles O30: each skip's test decides its condition. -/
theorem registerSkipsMovePcOnly : Obligations.RegisterSkipsMovePcOnly :=
  ⟨fun _ _ => encodedAs_rowOf rfl, fun _ _ => encodedAs_rowOf rfl, fun _ _ => encodedAs_rowOf rfl,
    fun _ _ => encodedAs_rowOf rfl,
    fun _ _ _ => ⟨_, rfl, State.skipIf_skipsWhen beq_iff_eq⟩, fun _ _ _ => ⟨_, rfl, State.skipIf_skipsWhen bne_iff_ne⟩,
    fun _ _ _ => ⟨_, rfl, State.skipIf_skipsWhen beq_iff_eq⟩, fun _ _ _ => ⟨_, rfl, State.skipIf_skipsWhen bne_iff_ne⟩⟩

/-! ### The immediates (R72, R73) -/

/-- A register written and pc advanced: the effect of an instruction that writes no flag (R12). -/
theorem State.setV_advance_writesReg (x : Reg) (b : Byte) : WritesReg x b s ((s.setV x b).advance 2) :=
  ⟨State.getV_setV_same s x b, fun _ hk => State.getV_setV_ne s b hk, rfl, rfl⟩

theorem addResult_toNat (a b : Byte) : (addResult a b).toNat = (a.toNat + b.toNat) % 256 :=
  BitVec.toNat_ofNat ..

/-- Settles O31: both write VX alone, `add-imm` with the sum modulo 256. -/
theorem immediatesAreLoadedAndAdded : Obligations.ImmediatesAreLoadedAndAdded :=
  ⟨fun _ _ => encodedAs_rowOf rfl, fun _ _ => encodedAs_rowOf rfl,
    fun x nn _ => ⟨_, rfl, State.setV_advance_writesReg x nn⟩,
    fun x _ _ => ⟨_, _, rfl, State.setV_advance_writesReg x _, addResult_toNat ..⟩⟩

end Sys2Proof.Machine
end

section
/-! SUPPORT. Family 8 (spec 42_alu.md R75-R83): copy and the bitwise operations, which write VX alone, and the arithmetic and the
shifts, which write their flag to VF after VX (R16). -/

namespace Sys2Proof.Machine

variable {s : State}

/-! ### Copy and the bitwise operations (R75-R78) -/

/-- Settles O35: each writes VX alone, and the bitwise results are read bit by bit. -/
theorem copyAndLogicWriteVX : Obligations.CopyAndLogicWriteVX :=
  ⟨fun _ _ => encodedAs_rowOf rfl, fun _ _ => encodedAs_rowOf rfl, fun _ _ => encodedAs_rowOf rfl,
    fun _ _ => encodedAs_rowOf rfl,
    fun x _ _ => ⟨_, rfl, State.setV_advance_writesReg x _⟩,
    fun x _ _ => ⟨_, _, rfl, State.setV_advance_writesReg x _, fun _ _ => BitVec.getLsbD_or⟩,
    fun x _ _ => ⟨_, _, rfl, State.setV_advance_writesReg x _, fun _ _ => BitVec.getLsbD_and⟩,
    fun x _ _ => ⟨_, _, rfl, State.setV_advance_writesReg x _, fun _ _ => BitVec.getLsbD_xor⟩⟩

/-! ### A result, then a flag (R16) -/

/-- The flag is written last, so VF holds it even when X = 0xF; `flag` decides the condition that VF reports. -/
theorem State.setResultAndFlag_advance_writesRegThenFlag {condition : Prop} {flag : Bool} (x : Reg) (b : Byte)
    (h : flag = true ↔ condition) : WritesRegThenFlag x b condition s ((s.setResultAndFlag x b flag).advance 2) := by
  have hvf : ((s.setResultAndFlag x b flag).advance 2).getV vf = if flag then 1 else 0 := State.getV_setV_same ..
  have hframe (k : Reg) (hk : k ≠ vf) : ((s.setResultAndFlag x b flag).advance 2).getV k = (s.setV x b).getV k :=
    State.getV_setV_ne _ _ hk
  refine ⟨fun hc => ?_, fun hc => ?_, fun hx => ?_, fun k hkx hkvf => ?_, rfl, rfl⟩
  · rw [hvf, if_pos (h.mpr hc)]
  · rw [hvf, if_neg (h.not.mpr hc)]
  · rw [hframe x hx, State.getV_setV_same]
  · rw [hframe k hkvf, State.getV_setV_ne s b hkx]

/-! ### The sum and the differences (R79, R80, R82) -/

theorem addCarry_iff (a b : Byte) : addCarry a b = true ↔ 255 < a.toNat + b.toNat := decide_eq_true_iff

/-- Settles O36: the carry decides that the unbounded sum exceeds 255. -/
theorem addRegSetsTheCarry : Obligations.AddRegSetsTheCarry :=
  ⟨fun _ _ => encodedAs_rowOf rfl, fun x _ _ =>
    ⟨_, _, rfl, addResult_toNat .., State.setResultAndFlag_advance_writesRegThenFlag x _ (addCarry_iff ..)⟩⟩

theorem subResult_toNat (a b : Byte) : (subResult a b).toNat = (a.toNat + 256 - b.toNat) % 256 :=
  BitVec.toNat_ofNat ..

theorem subNoBorrow_iff (a b : Byte) : subNoBorrow a b = true ↔ b.toNat ≤ a.toNat := decide_eq_true_iff

/-- Settles O37: one difference with its operands either way round, and the flag decides that the minuend is at least the
subtrahend. -/
theorem subtractionsSetNoBorrow : Obligations.SubtractionsSetNoBorrow :=
  ⟨fun _ _ => encodedAs_rowOf rfl, fun _ _ => encodedAs_rowOf rfl,
    fun x _ _ => ⟨_, _, rfl, subResult_toNat ..,
      State.setResultAndFlag_advance_writesRegThenFlag x _ (subNoBorrow_iff ..)⟩,
    fun x _ _ => ⟨_, _, rfl, subResult_toNat ..,
      State.setResultAndFlag_advance_writesRegThenFlag x _ (subNoBorrow_iff ..)⟩⟩

/-! ### The shifts (R81, R83) -/

theorem shiftRightResult_toNat (a : Byte) : (shiftRightResult a).toNat = a.toNat / 2 := by
  rw [shiftRightResult, BitVec.toNat_ushiftRight, Nat.shiftRight_one]

theorem shiftRightOut_iff (a : Byte) : shiftRightOut a = true ↔ a.toNat % 2 = 1 := by
  rw [shiftRightOut, BitVec.getLsbD, Nat.testBit_zero, decide_eq_true_iff]

theorem shiftLeftResult_toNat (a : Byte) : (shiftLeftResult a).toNat = a.toNat * 2 % 256 := by
  rw [shiftLeftResult, BitVec.toNat_shiftLeft, Nat.shiftLeft_eq]

/-- Bit 7 is the most significant bit of a byte. -/
theorem shiftLeftOut_iff (a : Byte) : shiftLeftOut a = true ↔ 128 ≤ a.toNat :=
  calc shiftLeftOut a = true
    _ ↔ a.msb = true := by rw [BitVec.msb_eq_getLsbD_last]; rfl
    _ ↔ 128 ≤ a.toNat := by rw [BitVec.msb_eq_decide, decide_eq_true_iff]

/-- Settles O38: the flag is the bit shifted out of the old VX, and VY occurs nowhere. -/
theorem shiftsPutTheLostBitInVF : Obligations.ShiftsPutTheLostBitInVF :=
  ⟨fun _ _ => encodedAs_rowOf rfl, fun _ _ => encodedAs_rowOf rfl,
    fun x _ _ => ⟨_, _, rfl, shiftRightResult_toNat _,
      State.setResultAndFlag_advance_writesRegThenFlag x _ (shiftRightOut_iff _)⟩,
    fun x _ _ => ⟨_, _, rfl, shiftLeftResult_toNat _,
      State.setResultAndFlag_advance_writesRegThenFlag x _ (shiftLeftOut_iff _)⟩⟩

end Sys2Proof.Machine
end

section
/-! SUPPORT. Families A to C (spec 43_skip_index_random.md R85-R87): the index register loaded, the jump that V0 indexes, the
masked random byte. -/

namespace Sys2Proof.Machine

/-- Settles O32. -/
theorem setIndexLoadsI : Obligations.SetIndexLoadsI :=
  ⟨fun _ => encodedAs_rowOf rfl, fun nnn _ => ⟨_, rfl, zext16_toNat nnn, rfl, rfl⟩⟩

/-- Settles O33: a 12-bit number and a byte add up without wrapping in the 16 bits of pc. -/
theorem jumpIndexedAddsV0 : Obligations.JumpIndexedAddsV0 :=
  ⟨fun _ => encodedAs_rowOf rfl, fun nnn s => ⟨_, rfl, indexedTarget_toNat nnn (s.getV 0), rfl⟩⟩

/-- Settles O34: the source advances, which leaves every register, and then VX alone is written. -/
theorem randomStoresTheMaskedByte : Obligations.RandomStoresTheMaskedByte := by
  refine ⟨fun _ _ => encodedAs_rowOf rfl, fun x nn r next s hdraw => ?_⟩
  have hbyte : s.randomByte = r := congrArg Prod.fst hdraw
  have hrng : s.advanceRng.rng = next := congrArg Prod.snd hdraw
  obtain ⟨hx, hother, hpc, -⟩ := State.setV_advance_writesReg (s := s.advanceRng) x (s.randomByte &&& nn)
  exact ⟨_, rfl, hbyte ▸ hx, hother, hrng, hpc, rfl⟩

end Sys2Proof.Machine
end

section
/-! SUPPORT. Family D (spec 44_draw.md R88, R89): one draw, cell by cell, and the second draw of the same sprite. -/

namespace Sys2Proof.Machine

variable {s t : State} {x y : Reg} {n : Fin 16}

/-! ### The canvas of one draw (R88, R89) -/

/-- The dots of the loops' sprite cover the cells of `SpriteCovers`; a sprite has at most 15 rows, so no cell is met twice. -/
theorem State.drawn_spec (s : State) (x y : Reg) (n : Fin 16) :
    (∀ p q, SpriteCovers s x y n.val p q → (s.drawn x y n.val).1.pixel p q = !s.pixel p q) ∧
    (∀ p q, ¬SpriteCovers s x y n.val p q → (s.drawn x y n.val).1.pixel p q = s.pixel p q) ∧
    ((s.drawn x y n.val).2 = true ↔ ∃ p q, SpriteCovers s x y n.val p q ∧ s.pixel p q = true) := by
  have hdistinct := spriteDots_distinct s.mem s.blockBase (s.getV x) (s.getV y) (n := n.val) (by omega)
  have hcovers (p : Column) (q : Row) : SpriteCovers s x y n.val p q ↔
      Covers (spriteDots s.mem s.blockBase (s.getV x) (s.getV y) n.val) p q := (covers_spriteDots ..).symm
  obtain ⟨hon, hoff, hhit⟩ := drawDots_spec hdistinct (s.fb, false)
  simp only [State.drawn, drawRows_eq_drawDots, hcovers]
  exact ⟨hon, hoff, hhit.trans (or_iff_right Bool.false_ne_true)⟩

/-! ### The execution (R89, R105) -/

theorem exec_drawSprite_of_inRange (x y : Reg) (h : n.val = 0 ∨ s.blockBase + n.val - 1 ≤ 0xFFF) :
    exec (.drawSprite x y n) s =
      .next ((((s.setFb (s.drawn x y n.val).1).setFlag (s.drawn x y n.val).2).requestRedraw).advance 2) := by
  have hok : s.blockOk n.val = true := (blockInRange_iff ..).mpr (by omega)
  exact congrArg Host.Outcome.next (if_pos hok)

theorem exec_drawSprite_of_outOfRange (x y : Reg) (h : 0 < n.val ∧ 0xFFF < s.blockBase + n.val - 1) :
    exec (.drawSprite x y n) s = .next (s.raiseFatal .addressOutOfRange) := by
  have hbad : ¬s.blockOk n.val = true := (blockInRange_iff ..).not.mpr (by omega)
  exact congrArg Host.Outcome.next (if_neg hbad)

/-- Settles O39: VF is the loops' hit, and is written after them, over the coordinates that VF may hold. -/
theorem drawTogglesExactlyTheCoveredCells : Obligations.DrawTogglesExactlyTheCoveredCells := by
  refine ⟨fun _ _ _ => encodedAs_rowOf rfl, fun x y n s =>
    ⟨fun h => ?_, fun h => ⟨_, exec_drawSprite_of_outOfRange x y h, rfl⟩⟩⟩
  obtain ⟨hon, hoff, hhit⟩ := s.drawn_spec x y n
  have hvf := State.getV_setV_same (s.setFb (s.drawn x y n.val).1) vf (if (s.drawn x y n.val).2 then 1 else 0)
  refine ⟨_, exec_drawSprite_of_inRange x y h, hon, hoff, fun hset => ?_, fun hclear => ?_,
    fun _ hk => State.getV_setV_ne _ _ hk, rfl, rfl, rfl⟩
  · exact hvf.trans (if_pos (hhit.mpr hset))
  · refine hvf.trans (if_neg (hhit.not.mpr ?_))
    rintro ⟨p, q, hc, hp⟩
    cases (hclear p q hc).symm.trans hp

/-! ### The same sprite drawn again -/

theorem State.fb_eq_of_pixel_eq (h : ∀ p q, t.pixel p q = s.pixel p q) : t.fb = s.fb :=
  Vector.ext fun q hq => Vector.ext fun p hp => h ⟨p, hp⟩ ⟨q, hq⟩

/-- The cells a sprite covers depend on its coordinates, on I and on memory only (R88). -/
theorem spriteCovers_congr (hx : t.getV x = s.getV x) (hy : t.getV y = s.getV y) (hindex : t.index = s.index)
    (hmem : t.mem = s.mem) {m : Nat} (p : Column) (q : Row) :
    SpriteCovers t x y m p q ↔ SpriteCovers s x y m p q := by
  simp only [SpriteCovers, State.blockBase, State.readByte, hx, hy, hindex, hmem]

/-- Settles O40, from O39 alone: the first draw leaves all that the sprite's cells depend on, so the second toggles the same
cells back, and hits those that were clear. -/
theorem drawingTwiceRestoresTheScreen : Obligations.DrawingTwiceRestoresTheScreen := by
  intro x y n s hx hy hrange
  have hdraw := drawTogglesExactlyTheCoveredCells.2 x y n
  obtain ⟨t, ht, hon, hoff, -, -, hreg, -, hpc, hframe⟩ := (hdraw s).1 hrange
  have hindex : t.index = s.index := by rw [hframe]
  have hmem : t.mem = s.mem := by rw [hframe]
  have hrange' : n.val = 0 ∨ t.blockBase + n.val - 1 ≤ 0xFFF := by rwa [State.blockBase, hindex]
  obtain ⟨u, hu, hon', hoff', hset, hclear, hreg', hredraw, hpc', hframe'⟩ := (hdraw t).1 hrange'
  simp only [spriteCovers_congr (hreg x hx) (hreg y hy) hindex hmem] at hon' hoff' hset hclear
  have hfb : u.fb = s.fb := State.fb_eq_of_pixel_eq fun p q => by
    by_cases hc : SpriteCovers s x y n.val p q
    · exact (hon' p q hc).trans (by rw [hon p q hc, Bool.not_not])
    · exact (hoff' p q hc).trans (hoff p q hc)
  refine ⟨t, u, ht, hu, hfb, ⟨fun hvf => ?_, ?_⟩, fun k hk => (hreg' k hk).trans (hreg k hk), ?_⟩
  · by_contra! hno
    have hzero : u.getV vf = 0 := hclear fun p q hc => by simpa [hon p q hc] using hno p q hc
    exact absurd (hvf.symm.trans hzero) (by decide)
  · rintro ⟨p, q, hc, hp⟩
    exact hset ⟨p, q, hc, by rw [hon p q hc, hp, Bool.not_false]⟩
  · calc u
      _ = { t with v := u.v, fb := u.fb, redraw := u.redraw, pc := u.pc } := hframe'
      _ = { s with v := u.v, fb := u.fb, redraw := u.redraw, pc := u.pc } := by rw [hframe]
      _ = { s with v := u.v, redraw := true, pc := s.pc + 4 } := by rw [hfb, hredraw, hpc', hpc, BitVec.add_assoc]; rfl

end Sys2Proof.Machine
end

section
/-! SUPPORT. Family E (spec 45_keyboard_skip.md R90, R91): the skips on the key that VX names. -/

namespace Sys2Proof.Machine

variable {x : Reg} {s : State}

/-- With VX naming a key, the skip tests whether that key is in the wanted state (R90, R91). -/
theorem skipOnKey_skipsWhen {k : Key} (wanted : Bool) (hk : (s.getV x).toNat = k.val) :
    ∃ t, skipOnKey x wanted s = .next t ∧ SkipsWhen (s.keys[k] = wanted) s t := by
  rcases skipOnKey_cases x wanted s with ⟨j, hj, hs⟩ | ⟨hout, -⟩
  · obtain rfl : j = k := Fin.ext (hj.trans hk)
    exact ⟨_, hs, State.skipIf_skipsWhen beq_iff_eq⟩
  · omega

/-- With VX naming no key, the skip is fatal whichever state it wants (R90, R91). -/
theorem skipOnKey_fatalEntry (wanted : Bool) (hout : 0xF < (s.getV x).toNat) :
    ∃ t, skipOnKey x wanted s = .next t ∧ FatalEntry .keyIndexOutOfRange s t := by
  rcases skipOnKey_cases x wanted s with ⟨j, hj, -⟩ | ⟨-, hs⟩
  · omega
  · exact ⟨_, hs, rfl⟩

/-- Settles O41: the two skips are one skip on a key, wanted pressed or wanted not pressed. -/
theorem keySkipsTestTheNamedKey : Obligations.KeySkipsTestTheNamedKey :=
  ⟨fun _ => encodedAs_rowOf rfl, fun _ => encodedAs_rowOf rfl, fun _ _ =>
    ⟨fun _ hk => ⟨skipOnKey_skipsWhen true hk, skipOnKey_skipsWhen false hk⟩,
      fun hout => ⟨skipOnKey_fatalEntry true hout, skipOnKey_fatalEntry false hout⟩⟩⟩

end Sys2Proof.Machine
end

section
/-! SUPPORT. Family F, the timers and the key wait (spec 46_timers_and_memory.md R92-R96): one execution of each, the step
around `get-delay`, and any number of steps at a `wait-key` while no key is pressed. -/

namespace Sys2Proof.Machine

variable {s t : State} {x : Reg} {w : Word} {i : Instr}

/-! ### The timers (R92, R95, R96, R116) -/

/-- A count down takes one off, and leaves 0 at 0 (R114, R116). -/
theorem countdown_toNat (b : Byte) : (countdown b).toNat = b.toNat - 1 := by
  unfold countdown
  split
  next h => rw [h]; rfl
  next h => bv_omega

/-- A step whose instruction leaves the core not halted ends with the timer update (R54, R116). -/
theorem step_of_exec (hrun : s.run = .running) (hfetch : s.fetch = some w) (hdec : decodeWord w = .instr i)
    (hexec : exec i (s.answer .ok) = .next t) (ht : t.run ≠ .halted) : step s = .next t.timerUpdate := by
  rw [step_of_fetch hrun hfetch hdec, hexec, endStep_next, endOfStep_other ht]

/-- Settles O42: VX takes DT as the execution finds it, before the timer update that ends the step. -/
theorem getDelayReadsDT : Obligations.GetDelayReadsDT := by
  refine ⟨fun _ => encodedAs_rowOf rfl, fun x s => ⟨_, rfl, State.setV_advance_writesReg x s.dt⟩,
    fun x w s hrun hfetch hdec => ?_⟩
  have hstep : step s = .next (((s.answer .ok).setV x s.dt).advance 2).timerUpdate :=
    step_of_exec hrun hfetch hdec rfl (by simp [hrun])
  exact ⟨_, hstep, State.getV_setV_same .., countdown_toNat s.dt⟩

/-- Settles O45. -/
theorem timersAreLoadedFromVX : Obligations.TimersAreLoadedFromVX :=
  ⟨fun _ => encodedAs_rowOf rfl, fun _ => encodedAs_rowOf rfl, fun _ _ => ⟨_, rfl, rfl⟩, fun _ _ => ⟨_, rfl, rfl⟩⟩

/-! ### The key wait (R93, R94) -/

/-- A pressed key with no smaller one pressed is the least pressed key. -/
theorem leastPressed_eq_some {k : Key} (hk : s.pressed k = true) (hbelow : ∀ j < k, s.pressed j = false) :
    s.leastPressed = some k := by
  cases hleast : s.leastPressed with
  | none => cases (leastPressed_none.mp hleast k).symm.trans hk
  | some j =>
    obtain ⟨hj, hbelow'⟩ := leastPressed_some hleast
    rcases lt_trichotomy j k with hlt | rfl | hlt
    · cases (hbelow j hlt).symm.trans hj
    · rfl
    · cases (hbelow' k hlt).symm.trans hk

theorem exec_waitKey_of_leastPressed {k : Key} (h : s.leastPressed = some k) :
    exec (.waitKey x) s = .next ((s.setV x (BitVec.ofNat 8 k.val)).advance 2) := by
  simp only [exec, execWaitKey, h]

theorem exec_waitKey_of_noKey (h : ∀ k : Key, s.keys[k] = false) : exec (.waitKey x) s = .next (s.answer .waitKey) := by
  simp only [exec, execWaitKey, leastPressed_none.mpr h]

/-- Settles O43, with a key pressed and with none. -/
theorem waitKeyStoresTheLeastPressedKey : Obligations.WaitKeyStoresTheLeastPressedKey := by
  refine ⟨fun _ => encodedAs_rowOf rfl, fun x s =>
    ⟨fun k hk hbelow => ?_, fun hnone => ⟨_, exec_waitKey_of_noKey hnone, rfl⟩⟩⟩
  have hbyte : (BitVec.ofNat 8 k.val).toNat = k.val := Nat.mod_eq_of_lt (by omega)
  exact ⟨_, _, exec_waitKey_of_leastPressed (leastPressed_eq_some hk hbelow), hbyte, State.setV_advance_writesReg x _⟩

/-- A step at a `wait-key` with no key pressed only counts down and answers WAIT_KEY (R94). -/
theorem step_waitKey_of_noKey (hrun : s.run = .running) (hfetch : s.fetch = some w)
    (hdec : decodeWord w = .instr (.waitKey x)) (hnone : ∀ k : Key, s.keys[k] = false) :
    step s = .next (s.answer .waitKey).timerUpdate := by
  have hexec : exec (.waitKey x) (s.answer .ok) = .next (s.answer .waitKey) := exec_waitKey_of_noKey hnone
  exact step_of_exec hrun hfetch hdec hexec (by simp [hrun])

/-- Settles O44, by induction on the number of steps: after one step the core runs, fetches the same word and finds no
key pressed, as before it. -/
theorem waitingStepsOnlyCountDown : Obligations.WaitingStepsOnlyCountDown := by
  intro x w n s hrun hfetch hdec hnone
  induction n generalizing s with
  | zero =>
    have hstep := step_waitKey_of_noKey hrun hfetch hdec hnone
    exact ⟨_, _, countdown_toNat s.dt, countdown_toNat s.st, run_succ 0 hstep⟩
  | succ n ih =>
    have hstep := step_waitKey_of_noKey hrun hfetch hdec hnone
    obtain ⟨d, e, hd, he, hrest⟩ := ih (s.answer .waitKey).timerUpdate hrun hfetch hnone
    simp only [State.timerUpdate_dt, State.timerUpdate_st, State.answer_dt, State.answer_st, countdown_toNat] at hd he
    exact ⟨d, e, by omega, by omega, (run_succ (n + 1) hstep).trans hrest⟩

end Sys2Proof.Machine
end

section
/-! SUPPORT. Family F, the index register and memory (spec 46_timers_and_memory.md R97-R101): I moved, and the blocks at I
stored and loaded. -/

namespace Sys2Proof.Machine

variable {s : State} {x : Reg} {i : Instr}

/-! ### The index register (R97, R98) -/

theorem indexSum_toNat (a : Word) (b : Byte) : (indexSum a b).toNat = (a.toNat + b.toNat) % 65536 :=
  BitVec.toNat_ofNat ..

theorem indexRange_iff (a : Word) (b : Byte) : indexRange a b = true ↔ 0xFFF < a.toNat + b.toNat := decide_eq_true_iff

/-- Settles O46: sum and flag are both of the VX before the flag is written to VF. -/
theorem addIndexSetsTheRangeFlag : Obligations.AddIndexSetsTheRangeFlag := by
  refine ⟨fun _ => encodedAs_rowOf rfl, fun x s => ⟨_, rfl, indexSum_toNat .., fun hout => ?_, fun hin => ?_,
    fun _ hk => State.getV_setV_ne _ _ hk, rfl, rfl⟩⟩
  · exact (State.getV_setV_same ..).trans (if_pos ((indexRange_iff ..).mpr hout))
  · exact (State.getV_setV_same ..).trans (if_neg ((indexRange_iff ..).not.mpr hin.not_gt))

/-- Five times a byte fits the 16 bits of I. -/
theorem glyphAddress_toNat (b : Byte) : (glyphAddress b).toNat = b.toNat * 5 := by
  have := b.isLt
  exact (BitVec.toNat_ofNat ..).trans (Nat.mod_eq_of_lt (show b.toNat * 5 < 65536 by omega))

/-- Settles O47. -/
theorem fontIndexPointsAtTheGlyph : Obligations.FontIndexPointsAtTheGlyph :=
  ⟨fun _ => encodedAs_rowOf rfl, fun _ _ => ⟨_, rfl, glyphAddress_toNat _, rfl, rfl⟩⟩

theorem State.advanceIndex_index_of_on (h : indexAdvance = true) :
    (s.advanceIndex x).index.toNat = (s.index.toNat + x.val + 1) % 65536 := by
  rw [State.advanceIndex_eq, State.setIndex_index, if_pos h, BitVec.toNat_ofNat]

theorem State.advanceIndex_index_of_off (h : indexAdvance = false) : (s.advanceIndex x).index = s.index := by
  simp [h]

/-! ### The two sides of the table of R105 -/

theorem exec_completes (h : fatalCondition s i = none) : ∃ t, exec i s = .next t ∧ Completes s i t := by
  rcases exec_cases i s with ⟨c, hc, -⟩ | ⟨-, hdone⟩
  · cases h.symm.trans hc
  · exact hdone

theorem exec_fatalEntry {c : FatalCode} (h : fatalCondition s i = some c) :
    ∃ t, exec i s = .next t ∧ FatalEntry c s t := by
  rcases exec_cases i s with ⟨c', hc', hexec⟩ | ⟨hnone, -⟩
  · obtain rfl : c' = c := Option.some.inj (hc'.symm.trans h)
    exact ⟨_, hexec, rfl⟩
  · cases h.symm.trans hnone

/-! ### Stores (R99, R100) -/

/-- The digits of a byte as numbers (R99). -/
theorem bcdDigits_map_toNat (b : Byte) :
    (bcdDigits b).map BitVec.toNat = [b.toNat / 100, b.toNat / 10 % 10, b.toNat % 10] := by
  have := b.isLt
  simp only [bcdDigits, List.map_cons, List.map_nil, BitVec.toNat_ofNat, List.cons.injEq, and_true]
  omega

/-- Byte `k` of a stored block, as a number. -/
theorem State.readByte_storeBytes_toNat (a : Nat) {k : Nat} {xs : List Byte} (hk : k < xs.length) :
    ((s.storeBytes a xs).readByte (a + k)).toNat = (xs.map BitVec.toNat).getD k 0 := by
  have hread : (s.storeBytes a xs).readByte (a + k) = xs[k] := Memory.readByte_writeBytes_inside s.mem hk
  simp [hread, hk]

/-- Settles O48: the three digits are the block stored at I. -/
theorem storeBcdWritesThreeDigits : Obligations.StoreBcdWritesThreeDigits := by
  refine ⟨fun _ => encodedAs_rowOf rfl, fun x s => ⟨fun hin => ?_, fun hout => exec_fatalEntry (if_pos hout)⟩⟩
  obtain ⟨t, ht, ⟨⟩⟩ := exec_completes (i := .storeBcd x) (if_neg (not_lt.mpr hin))
  have hdigit (k : Nat) (hk : k < 3) :=
    (State.readByte_storeBytes_toNat (s := s) s.blockBase (xs := bcdDigits (s.getV x)) hk).trans
      (by rw [bcdDigits_map_toNat])
  exact ⟨_, ht, hdigit 0 (by decide), hdigit 1 (by decide), hdigit 2 (by decide),
    fun a ha => Memory.readByte_writeBytes_outside s.mem ha, rfl⟩

/-- Settles O49: V0 to VX are the block stored at I. -/
theorem storeRegsWritesV0ToVX : Obligations.StoreRegsWritesV0ToVX := by
  refine ⟨fun _ => encodedAs_rowOf rfl, fun x s => ⟨fun hin => ?_, fun hout => exec_fatalEntry (if_pos hout)⟩⟩
  refine ⟨_, exec_storeRegs_of_inRange hin, fun k hk => State.readByte_storeBytes_lowRegs _ hk, fun a ha => ?_,
    State.advanceIndex_index_of_on, State.advanceIndex_index_of_off, rfl⟩
  exact Memory.readByte_writeBytes_outside s.mem (by rw [lowRegs_length]; omega)

/-! ### Loads (R101) -/

/-- Settles O50: a register is loaded exactly when it is not above VX. -/
theorem loadRegsReadsV0ToVX : Obligations.LoadRegsReadsV0ToVX := by
  refine ⟨fun _ => encodedAs_rowOf rfl, fun x s => ⟨fun hin => ?_, fun hout => exec_fatalEntry (if_pos hout)⟩⟩
  obtain ⟨t, ht, ⟨⟩⟩ := exec_completes (i := .loadRegs x) (if_neg (not_lt.mpr hin))
  refine ⟨_, ht, fun k hk => ?_, fun k hk => ?_, State.advanceIndex_index_of_on, State.advanceIndex_index_of_off, rfl⟩
  · simp [hk]
  · simp [hk.not_ge]

/-- Settles O51, from O49 and O50: the load reads where the store wrote, since I and the memory are the store's. -/
theorem storedRegistersLoadBack : Obligations.StoredRegistersLoadBack := by
  intro x s hin
  obtain ⟨t, ht, hstored, -⟩ := (storeRegsWritesV0ToVX.2 x s).1 hin
  refine ⟨t, ht, fun u hmem hindex => ?_⟩
  have hbase : u.blockBase = s.blockBase := congrArg BitVec.toNat hindex
  obtain ⟨r, hr, hloaded, -⟩ := (loadRegsReadsV0ToVX.2 x u).1 (hbase ▸ hin)
  refine ⟨r, hr, fun k hk => ?_⟩
  calc r.getV k
    _ = u.readByte (u.blockBase + k.val) := hloaded k hk
    _ = t.readByte (s.blockBase + k.val) := by rw [State.readByte, hmem, hbase]; rfl
    _ = s.getV k := hstored k hk

end Sys2Proof.Machine
end

section
/-! SUPPORT. What one step can do, said once (spec 30_encoding.md R54; 60_exceptions.md R104-R109, R113, R116), and what follows for
its status, its fatal condition and the timers. -/

namespace Sys2Proof.Machine

variable {s t : State} {x : Reg} {w : Word} {i : Instr}

/-! ### What a completed execution leaves to the step -/

theorem Completes.run_eq (h : Completes s i t) : t.run = s.run := by cases h <;> simp

theorem Completes.fault_eq (h : Completes s i t) : t.fault = s.fault := by cases h <;> simp

/-- Only `sys`, and `wait-key` with no key pressed, write the status (R66, R93). -/
theorem Completes.status_cases (h : Completes s i t) :
    (∃ nnn, i = .sys nnn ∧ t = s.passOver (encode (.sys nnn))) ∨
    (∃ x, i = .waitKey x ∧ s.leastPressed = none ∧ t = s.answer .waitKey) ∨ t.status = s.status := by
  cases h with
  | sys nnn => exact .inl ⟨nnn, rfl, rfl⟩
  | waitKeyNone x least => exact .inr (.inl ⟨x, rfl, least, rfl⟩)
  | _ => exact .inr (.inr (by simp))

/-- The code NONE is no row of the table of R105. -/
theorem fatalCondition_ne_some_none : fatalCondition s i ≠ some .none := by
  cases i <;> simp [fatalCondition]

/-! ### The inversion of a step -/

/-- The ways a step can end, each with the run state and the fetched word it needs (R54, R104, R106, R113). -/
inductive Steps (s : State) : State → Prop
  | unloaded (hrun : s.run = .unloaded) : Steps s (s.answer .notRunning)
  | halted (hrun : s.run = .halted) : Steps s (s.answer (.fatal s.fault))
  | fatal (hrun : s.run = .running) {c : FatalCode} (hc : c ≠ .none) : Steps s (s.raiseFatal c)
  | passedOver (hrun : s.run = .running) {w : Word} {q : Rejection} (hfetch : s.fetch = some w)
      (hdec : decodeWord w = .rejected q) : Steps s ((s.answer .ok).passOver w).timerUpdate
  | completed (hrun : s.run = .running) {w : Word} {i : Instr} {u : State} (hfetch : s.fetch = some w)
      (hdec : decodeWord w = .instr i) (hexec : exec i (s.answer .ok) = .next u) (hdone : Completes (s.answer .ok) i u) :
      Steps s u.timerUpdate

/-- A step that executes an instruction is fatal or completed, as the execution is. -/
theorem exists_step_of_fetch (hrun : s.run = .running) (hfetch : s.fetch = some w) (hdec : decodeWord w = .instr i) :
    ∃ t, step s = .next t ∧ Steps s t := by
  rcases exec_cases i (s.answer .ok) with ⟨c, hc, hexec⟩ | ⟨-, u, hexec, hdone⟩
  · have hstep : step s = .next (s.raiseFatal c) := by
      rw [step_of_fetch hrun hfetch hdec, hexec, endStep_next, endOfStep_halted (State.raiseFatal_run ..)]
      rfl
    exact ⟨_, hstep, .fatal hrun fun hnone => fatalCondition_ne_some_none (hnone ▸ hc)⟩
  · have hu : u.run ≠ .halted := by simp [hdone.run_eq, hrun]
    exact ⟨_, step_of_exec hrun hfetch hdec hexec hu, .completed hrun hfetch hdec hexec hdone⟩

/-- Every step answers a next state, in one of the listed ways. -/
theorem exists_step (s : State) : ∃ t, step s = .next t ∧ Steps s t := by
  cases hrun : s.run with
  | unloaded => exact ⟨_, step_unloaded hrun, .unloaded hrun⟩
  | halted => exact ⟨_, step_halted hrun, .halted hrun⟩
  | running =>
    rcases Nat.lt_or_ge 0xFFE s.pc.toNat with hpc | hpc
    · exact ⟨_, step_of_pc_out_of_range hrun hpc, .fatal hrun (by decide)⟩
    · have hfetch := fetch_some hpc
      cases hdec : decodeWord (wordOfBytes (s.readByte s.pc.toNat) (s.readByte (s.pc.toNat + 1))) with
      | instr i => exact exists_step_of_fetch hrun hfetch hdec
      | rejected q => exact ⟨_, step_of_fetch_rejected hrun hfetch hdec, .passedOver hrun hfetch hdec⟩

theorem steps_of_step (h : step s = .next t) : Steps s t := by
  obtain ⟨u, hu, hsteps⟩ := exists_step s
  obtain rfl := Host.Outcome.next.inj (h.symm.trans hu)
  exact hsteps

/-! ### The status of a step and of a load (R108, R39) -/

/-- The fatal status of a halted core is the fatal entry over again (R106). -/
theorem fatalEntry_of_halted (hrun : s.run = .halted) : FatalEntry s.fault s (s.answer (.fatal s.fault)) := by
  cases s
  cases hrun
  rfl

/-- The three statuses of a load (R39). -/
theorem loadProgram_status (rom : List Byte) (s : State) : (loadProgram rom s).status = .ok ∨
    (loadProgram rom s).status = .fatal .capacityExceeded ∨ (loadProgram rom s).status = .notAccepted := by
  by_cases hrun : s.run = .unloaded
  · rcases Nat.lt_or_ge 3584 rom.length with hlen | hlen
    · rw [loadProgram_tooLong hrun hlen]; exact .inr (.inl rfl)
    · rw [loadProgram_accepted hrun hlen]; exact .inl rfl
  · rw [loadProgram_notAccepted rom hrun]; exact .inr (.inr rfl)

/-- Settles O6, along the ways a step can end; a completed execution answers OK unless it is of `sys`, whose word is the one
fetched, or of `wait-key` with no key pressed. -/
theorem stepReturnsOneStatusWithItsChange : Obligations.StepReturnsOneStatusWithItsChange := by
  refine ⟨fun s => ?_, loadProgram_status⟩
  obtain ⟨t, hstep, hsteps⟩ := exists_step s
  refine ⟨t, hstep, ?_⟩
  cases hsteps with
  | unloaded hrun => exact .inr (.inr (.inr (.inr ⟨rfl, hrun, rfl⟩)))
  | halted hrun => exact .inr (.inr (.inr (.inl ⟨_, rfl, fatalEntry_of_halted hrun, .inr ⟨hrun, rfl⟩⟩)))
  | fatal hrun hc => exact .inr (.inr (.inr (.inl ⟨_, rfl, rfl, .inl ⟨hrun, hc⟩⟩)))
  | passedOver hrun hfetch hdec => exact .inr (.inr (.inl ⟨_, rfl, hrun, hfetch, .inl ⟨_, hdec⟩, rfl⟩))
  | completed hrun hfetch hdec hexec hdone =>
    rcases hdone.status_cases with ⟨nnn, rfl, rfl⟩ | ⟨x, rfl, hleast, rfl⟩ | hstatus
    · obtain ⟨-, rfl⟩ := encodeOfDecodeIsTheWord _ _ hdec
      exact .inr (.inr (.inl ⟨_, rfl, hrun, hfetch, .inr ⟨nnn, hdec⟩, rfl⟩))
    · exact .inr (.inl ⟨rfl, hrun, leastPressed_none.mp hleast, ⟨_, x, hfetch, hdec⟩, rfl⟩)
    · exact .inl ⟨hstatus, _, _, _, hrun, hfetch, hdec, hexec, rfl⟩

/-- Settles O11. -/
theorem stepBeforeLoadChangesNothing : Obligations.StepBeforeLoadChangesNothing := fun _ hrun => step_unloaded hrun

/-! ### Fatal conditions (R104, R105) -/

/-- Settles O12: of the ways a running core's step can end, only the fatal one halts it. -/
theorem fatalConditionsArePrecise : Obligations.FatalConditionsArePrecise := by
  refine ⟨fun i s => ⟨fun c hc => exec_fatalEntry hc, fun hnone => ?_⟩,
    fun s hrun hpc => ⟨_, step_of_pc_out_of_range hrun hpc, rfl⟩, fun s t hrun hstep ht => ?_⟩
  · obtain ⟨t, ht, hdone⟩ := exec_completes hnone
    exact ⟨t, ht, hdone.run_eq, hdone.fault_eq⟩
  · cases steps_of_step hstep with
    | fatal => rfl
    | unloaded hstopped | halted hstopped => cases hrun.symm.trans hstopped
    | passedOver => simp [hrun] at ht
    | completed _ _ _ _ hdone => simp [hdone.run_eq, hrun] at ht

/-! ### The timers (R116-R118) -/

/-- The timer update of a completed execution counts the timers down from the values the execution left. -/
theorem Completes.timerUpdate_dt_toNat (h : Completes s i t) (hi : ∀ x, i ≠ .setDelay x) :
    t.timerUpdate.dt.toNat = s.dt.toNat - 1 := by
  have hdt : t.dt = s.dt := by
    by_contra hne
    obtain ⟨x, hx⟩ := h.writer_of_dt_ne hne
    exact hi x hx
  rw [State.timerUpdate_dt, hdt, countdown_toNat]

theorem Completes.timerUpdate_st_toNat (h : Completes s i t) (hi : ∀ x, i ≠ .setSound x) :
    t.timerUpdate.st.toNat = s.st.toNat - 1 := by
  have hst : t.st = s.st := by
    by_contra hne
    obtain ⟨x, hx⟩ := h.writer_of_st_ne hne
    exact hi x hx
  rw [State.timerUpdate_st, hst, countdown_toNat]

theorem Completes.timerUpdate_dt_of_setDelay (h : Completes s (.setDelay x) t) :
    t.timerUpdate.dt.toNat = (s.getV x).toNat - 1 := by
  cases h
  exact countdown_toNat _

theorem Completes.timerUpdate_st_of_setSound (h : Completes s (.setSound x) t) :
    t.timerUpdate.st.toNat = (s.getV x).toNat - 1 := by
  cases h
  exact countdown_toNat _

/-- Settles O53: the steps that leave the core running are those that pass over a word and those that complete. -/
theorem timersCountOncePerStep : Obligations.TimersCountOncePerStep := by
  intro s t hstep
  cases steps_of_step hstep with
  | unloaded hrun | halted hrun => simp [hrun]
  | fatal hrun => simp
  | @passedOver hrun w q hfetch hdec =>
    refine ⟨fun _ _ => ⟨w, hfetch, ?_⟩, fun hstopped => by simp [hrun] at hstopped⟩
    simp [hdec, countdown_toNat]
  | @completed hrun w i u hfetch hdec hexec hdone =>
    refine ⟨fun _ _ => ⟨w, hfetch, fun hi => ?_, fun hi => ?_, fun x hx => ?_, fun x hx => ?_⟩,
      fun hstopped => by simp [hdone.run_eq, hrun] at hstopped⟩
    · exact hdone.timerUpdate_dt_toNat fun x hx => hi x (hx ▸ hdec)
    · exact hdone.timerUpdate_st_toNat fun x hx => hi x (hx ▸ hdec)
    · obtain rfl : i = .setDelay x := Decoded.instr.inj (hdec.symm.trans hx)
      exact hdone.timerUpdate_dt_of_setDelay
    · obtain rfl : i = .setSound x := Decoded.instr.inj (hdec.symm.trans hx)
      exact hdone.timerUpdate_st_of_setSound

theorem State.tone_iff : s.tone = true ↔ s.st ≠ 0 := decide_eq_true_iff

theorem State.tone_iff_toNat : s.tone = true ↔ 1 ≤ s.st.toNat := by
  rw [State.tone_iff]
  bv_omega

/-- Settles O54: the timer update of the step counts down from the value just loaded. -/
theorem timerWritesLoseOneInTheSameStep : Obligations.TimerWritesLoseOneInTheSameStep := by
  refine fun x w s hrun hfetch => ⟨fun hdec => ?_, fun hdec => ?_⟩
  · have hdone : Completes (s.answer .ok) (.setDelay x) _ := .setDelay x
    exact ⟨_, step_of_exec hrun hfetch hdec rfl (by simp [hrun]), hdone.timerUpdate_dt_of_setDelay⟩
  · have hdone : Completes (s.answer .ok) (.setSound x) _ := .setSound x
    have hst := hdone.timerUpdate_st_of_setSound
    refine ⟨_, step_of_exec hrun hfetch hdec rfl (by simp [hrun]), hst, ?_⟩
    rw [State.tone_iff_toNat, hst, State.answer_getV]
    omega

end Sys2Proof.Machine
end

section
/-! SUPPORT. The halted core, the run that has reached its end, and the host between steps (spec 60_exceptions.md R106, R118, R120,
R125). -/

namespace Sys2Proof.Machine

variable {s : State} {a : Addr}

/-! ### HALTED (R106) -/

/-- Any number of steps of a halted core answer as the first does. -/
theorem run_halted (n : Nat) (hrun : s.run = .halted) :
    Host.Core.run Sys2Proof.core (n + 1) s = .next (s.answer (.fatal s.fault)) := by
  induction n generalizing s with
  | zero => exact run_succ 0 (step_halted hrun)
  | succ n ih => exact (run_succ (n + 1) (step_halted hrun)).trans (ih (s := s.answer (.fatal s.fault)) hrun)

/-- Settles O10: a halted core's run, its refused load, and the host actions one by one. -/
theorem haltedStaysHaltedUntilReset : Obligations.HaltedStaysHaltedUntilReset := by
  intro s hrun
  have hload (rom : List Byte) : loadProgram rom s = s.answer .notAccepted :=
    loadProgram_notAccepted rom (by simp [hrun])
  refine ⟨fun n => run_halted n hrun, hload, fun action hleft => ?_⟩
  cases action with
  | reset => rfl
  | loadProgram rom => exact absurd ((congrArg State.run (hload rom)).trans hrun) hleft
  | clearRedraw | writeKey => exact absurd hrun hleft

/-! ### The end of a run (R125) -/

theorem exec_jump (nnn : Addr) : exec (.jump nnn) s = .next (s.setPc (zext16 nnn)) := rfl

/-- A step at the end of a run executes the jump to itself (R67): it leaves the core where it is. -/
theorem step_of_endedAt (h : s.EndedAt a) : step s = .next (s.answer .ok).timerUpdate := by
  obtain ⟨hrun, hpc, hfetchable, hword⟩ := h
  have hpcNat : s.pc.toNat = a.toNat := (congrArg BitVec.toNat hpc).trans (zext16_toNat a)
  have hfetch : s.fetch = some (encode (.jump a)) := hword ▸ fetch_of_readByte hpcNat (by omega) rfl rfl
  have hexec : exec (.jump a) (s.answer .ok) = .next (s.answer .ok) := by
    rw [exec_jump, zext16, ← hpc]
    rfl
  exact step_of_exec hrun hfetch (decodeWord_encode rfl) hexec (by simp [hrun])

/-- Settles O58, by induction on the number of steps: the end of a run does not depend on the timers and the status, all that a
step there changes. -/
theorem endedRunOnlyCountsDown : Obligations.EndedRunOnlyCountsDown := by
  intro a n s hended
  induction n generalizing s with
  | zero => exact ⟨s, rfl, hended, rfl, rfl, rfl⟩
  | succ n ih =>
    obtain ⟨t, hrest, ht, hdt, hst, heq⟩ := ih (s.answer .ok).timerUpdate hended
    simp only [State.timerUpdate_dt, State.timerUpdate_st, State.answer_dt, State.answer_st, countdown_toNat] at hdt hst
    exact ⟨t, (run_succ n (step_of_endedAt hended)).trans hrest, ht, by omega, by omega, heq⟩

/-! ### What the host writes and reads (R24, R25, R118, R120) -/

theorem writeKey_keys_same (k : Key) (value : Nat) : (writeKey k value s).keys[k] = decide (value ≠ 0) :=
  Vector.getElem_set_self ..

theorem writeKey_keys_ne {j k : Key} (value : Nat) (hj : j ≠ k) : (writeKey k value s).keys[j] = s.keys[j] :=
  Vector.getElem_set_ne k.isLt j.isLt fun h => hj (Fin.ext h.symm)

/-- The host's linear view of the framebuffer holds cell (x, y) at `64 y + x` (R24). -/
theorem hostView_fb_getElem (x : Column) (y : Row) (h : y.val * 64 + x.val < 2048) :
    s.hostView.fb[y.val * 64 + x.val] = s.pixel x y := by
  have hcolumn : (y.val * 64 + x.val) % 64 = x.val := by omega
  have hrow : (y.val * 64 + x.val) / 64 = y.val := by omega
  simp [State.hostView, State.linearCell, hcolumn, hrow]

/-- Settles O57, action by action and then item by item of the host's view. -/
theorem hostTouchesOnlyItsInterface : Obligations.HostTouchesOnlyItsInterface :=
  ⟨fun k value _ => ⟨writeKey_keys_same k value, fun _ hj => writeKey_keys_ne value hj, rfl⟩, fun _ => rfl, fun _ => rfl,
    fun _ => State.tone_iff, fun _ x y h => hostView_fb_getElem x y h, fun _ => ⟨rfl, rfl, rfl⟩⟩

end Sys2Proof.Machine
end

section
/-! SUPPORT. The machine's invariant (spec 10_state.md R19, R28, R34; 20_memory.md R39; 40_family0.md R65; 60_exceptions.md R104,
R106): reset meets it, every step and every host action keep it, and so every reachable state meets it. -/

namespace Sys2Proof.Machine

variable {s t : State} {i : Instr}

/-! ### What a completed execution leaves in memory, in pc and on the stack -/

theorem fatalCondition_eq_none_of_exec (hexec : exec i s = .next t) (ht : t.run ≠ .halted) :
    fatalCondition s i = none := by
  rcases exec_next_cases hexec with ⟨c, -, rfl⟩ | ⟨hnone, -⟩
  · exact absurd (s.raiseFatal_run c) ht
  · exact hnone

/-- The fault conditions of FX33 and FX55 keep their blocks inside the address space (R99, R100). -/
theorem Completes.mem_wf (h : Completes s i t) (hnone : fatalCondition s i = none) (hm : s.mem.wf = true) :
    t.mem.wf = true := by
  cases h with
  | storeBcd x =>
    have hbcd : ¬s.index.toNat + 2 > 0xFFF := by simpa [fatalCondition] using hnone
    have hblock : s.blockBase + 3 ≤ 4096 := by rw [State.blockBase]; omega
    exact Memory.wf_writeBytes hblock hm
  | storeRegs x =>
    have hregs : ¬s.index.toNat + x.val > 0xFFF := by simpa [fatalCondition] using hnone
    have hblock : s.blockBase + (x.val + 1) ≤ 4096 := by rw [State.blockBase]; omega
    exact Memory.wf_writeBytes (by rwa [lowRegs_length]) hm
  | _ => simpa using hm

/-- The furthest pc is that of BNNN, 0xFFF + 0xFF (R19, R86). -/
theorem Completes.pc_le (h : Completes s i t) (hpc : s.pc.toNat ≤ 0xFFE)
    (hstack : ∀ k : Fin 16, s.stack[k].toNat ≤ 0xFFE) : t.pc.toNat ≤ 0x10FE := by
  have hnext : (s.pc + 2).toNat ≤ 0x10FE := by bv_omega
  cases h with
  | ret used =>
    have htop : (s.top used).toNat ≤ 0xFFE := hstack ⟨s.sp.val - 1, by omega⟩
    rw [State.setPc_pc]; bv_omega
  | jump nnn | call nnn =>
    have := nnn.isLt
    rw [State.setPc_pc, zext16_toNat]; omega
  | jumpIndexed nnn =>
    have := nnn.isLt
    have := (s.getV 0).isLt
    rw [State.setPc_pc, indexedTarget_toNat]; omega
  | skipEqImm | skipNeqImm | skipEqReg | skipNeqReg | skipIfPressed | skipIfNotPressed =>
    rw [State.skipIf_eq, State.setPc_pc]; split <;> bv_omega
  | waitKeyNone => exact hpc.trans (by decide)
  | _ => simpa using hnext

/-- Only `call` writes the stack, and what it pushes is its own address (R65, R68). -/
theorem Completes.stack_le (h : Completes s i t) (hpc : s.pc.toNat ≤ 0xFFE)
    (hstack : ∀ k : Fin 16, s.stack[k].toNat ≤ 0xFFE) (k : Fin 16) : t.stack[k].toNat ≤ 0xFFE := by
  by_cases hk : t.stack[k] = s.stack[k]
  · rw [hk]; exact hstack k
  · obtain ⟨⟨nnn, rfl⟩, hsp⟩ := h.writer_of_stack_ne hk
    cases h with
    | call _ room =>
      have hpushed : (s.push room s.pc).stack[k] = s.pc := State.push_stack_same room s.pc hsp.symm
      exact (congrArg BitVec.toNat hpushed).trans_le hpc

theorem Completes.status_ne_fatal (h : Completes s i t) {c : FatalCode} (hs : s.status ≠ .fatal c) :
    t.status ≠ .fatal c := by
  rcases h.status_cases with ⟨nnn, -, rfl⟩ | ⟨x, -, -, rfl⟩ | hstatus
  · simp
  · simp
  · rwa [hstatus]

theorem pc_le_of_fetch {w : Word} (hfetch : s.fetch = some w) : s.pc.toNat ≤ 0xFFE := by
  by_contra hpc
  cases hfetch.symm.trans (fetch_none (not_le.mp hpc))

/-! ### The updates that keep the invariant -/

namespace State.Inv

theorem answer (h : s.Inv) {a : Status} (ha : ∀ c, a ≠ .fatal c) : (s.answer a).Inv :=
  ⟨h.memory, h.faultIffHalted, fun c hc => absurd hc (ha c), h.pcBound, h.stackBound⟩

theorem answer_fatal_fault (h : s.Inv) (hrun : s.run = .halted) : (s.answer (.fatal s.fault)).Inv :=
  ⟨h.memory, h.faultIffHalted, fun _ hc => ⟨hrun, Status.fatal.inj hc⟩, h.pcBound, h.stackBound⟩

theorem raiseFatal (h : s.Inv) {c : FatalCode} (hc : c ≠ .none) : (s.raiseFatal c).Inv :=
  ⟨h.memory, iff_of_true hc rfl, fun _ heq => ⟨rfl, Status.fatal.inj heq⟩, h.pcBound, h.stackBound⟩

theorem timerUpdate (h : s.Inv) : s.timerUpdate.Inv :=
  ⟨h.memory, h.faultIffHalted, h.statusIsFault, h.pcBound, h.stackBound⟩

theorem passOver (h : s.Inv) (hpc : s.pc.toNat ≤ 0xFFE) (w : Word) : (s.passOver w).Inv := by
  have hnext : (s.pc + 2).toNat ≤ 0x10FE := by bv_omega
  exact ⟨h.memory, h.faultIffHalted, fun _ hc => (by cases hc), hnext, h.stackBound⟩

/-- A completed execution of a fetched instruction, which starts with the status OK (R54). -/
theorem of_completes (h : s.Inv) (hdone : Completes s i t) (hnone : fatalCondition s i = none)
    (hpc : s.pc.toNat ≤ 0xFFE) (hok : s.status = .ok) : t.Inv where
  memory := hdone.mem_wf hnone h.memory
  faultIffHalted := by rw [hdone.fault_eq, hdone.run_eq]; exact h.faultIffHalted
  statusIsFault c hc := absurd hc (hdone.status_ne_fatal (by simp [hok]))
  pcBound := hdone.pc_le hpc h.stackBound
  stackBound := hdone.stack_le hpc h.stackBound

theorem loaded (h : s.Inv) (hrun : s.run = .unloaded) {rom : List Byte} (hlen : rom.length ≤ 3584) :
    (s.loaded rom).Inv := by
  have hfault : s.fault = .none := by
    by_contra hne
    cases hrun.symm.trans (h.faultIffHalted.mp hne)
  have hspace : Config.progBase + rom.length ≤ Config.memSize := Nat.add_le_add_left hlen 0x200
  exact ⟨Memory.wf_writeBytes hspace h.memory, iff_of_false (fun hne => hne hfault) (fun hr => by cases hr),
    fun _ hc => (by cases hc), h.pcBound, h.stackBound⟩

/-- A load that is refused, one that is fatal, one that is accepted (R39). -/
theorem loadProgram (h : s.Inv) (rom : List Byte) : (loadProgram rom s).Inv := by
  by_cases hrun : s.run = .unloaded
  · rcases Nat.lt_or_ge 3584 rom.length with hlen | hlen
    · rw [loadProgram_tooLong hrun hlen]; exact h.raiseFatal (by decide)
    · rw [loadProgram_accepted hrun hlen]; exact h.loaded hrun hlen
  · rw [loadProgram_notAccepted rom hrun]; exact h.answer (by simp)

end State.Inv

/-! ### The invariant of every run -/

/-- Settles O2. -/
theorem resetMeetsTheInvariant : Obligations.ResetMeetsTheInvariant where
  memory := Memory.wf_reset
  faultIffHalted := by decide
  statusIsFault _ hc := by cases hc
  pcBound := by decide
  stackBound _ := by simp [State.reset]

/-- Settles O3, along the ways a step can end. -/
theorem everyStepKeepsTheInvariant : Obligations.EveryStepKeepsTheInvariant := by
  intro s t hs hstep
  have hok : (s.answer .ok).Inv := hs.answer (by simp)
  cases steps_of_step hstep with
  | unloaded => exact hs.answer (by simp)
  | halted hrun => exact hs.answer_fatal_fault hrun
  | fatal _ hc => exact hs.raiseFatal hc
  | passedOver _ hfetch => exact (hok.passOver (pc_le_of_fetch hfetch) _).timerUpdate
  | completed hrun hfetch _ hexec hdone =>
    have hnone := fatalCondition_eq_none_of_exec hexec (by simp [hdone.run_eq, hrun])
    exact (hok.of_completes hdone hnone (pc_le_of_fetch hfetch) rfl).timerUpdate

/-- Settles O4, action by action; clearing REDRAW and writing a key touch no item the invariant speaks of. -/
theorem everyHostActionKeepsTheInvariant : Obligations.EveryHostActionKeepsTheInvariant := by
  intro a s hs
  cases a with
  | reset => exact resetMeetsTheInvariant
  | loadProgram rom => exact hs.loadProgram rom
  | clearRedraw | writeKey =>
    exact ⟨hs.memory, hs.faultIffHalted, hs.statusIsFault, hs.pcBound, hs.stackBound⟩

/-- The invariant holds of every reachable state, by induction on how it is reached. -/
theorem State.Reachable.inv (h : s.Reachable) : s.Inv := by
  induction h with
  | reset => exact resetMeetsTheInvariant
  | step _ hstep ih => exact everyStepKeepsTheInvariant _ _ ih hstep
  | host _ a ih => exact everyHostActionKeepsTheInvariant a _ ih

/-- Settles O5, a clause of the invariant. -/
theorem reachablePcNeverExceeds10FE : Obligations.ReachablePcNeverExceeds10FE := fun _ h => h.inv.pcBound

end Sys2Proof.Machine
end

section
/-! SUPPORT. What a step runs: the instruction its fetched word decodes to (spec 30_encoding.md R54), and first of all the word at
the start of the ROM (70_reset_and_hazards.md R127). -/

namespace Sys2Proof.Machine

variable {s t : State} {w : Word} {i : Instr}

/-- A step whose instruction raises a fatal condition ends there, without the timer update (R54, R104). -/
theorem step_of_exec_halted (hrun : s.run = .running) (hfetch : s.fetch = some w) (hdec : decodeWord w = .instr i)
    (hexec : exec i (s.answer .ok) = .next t) (ht : t.run = .halted) : step s = .next t := by
  rw [step_of_fetch hrun hfetch hdec, hexec, endStep_next, endOfStep_halted ht]

/-- Settles O7, by whether the execution leaves the core halted. -/
theorem stepRunsTheDecodedInstruction : Obligations.StepRunsTheDecodedInstruction := by
  intro s t i _ hrun hpc hdec hexec
  have hfetch := fetch_some (s := s) (by omega)
  exact ⟨step_of_exec_halted hrun hfetch hdec hexec, step_of_exec hrun hfetch hdec hexec⟩

/-- Settles O56: the accepted load leaves pc at 0x200, where it put the ROM's first two bytes. -/
theorem firstFetchIsTheFirstRomWord : Obligations.FirstFetchIsTheFirstRomWord := by
  intro b0 b1 rest hrest
  have hlen : (b0 :: b1 :: rest).length ≤ 3584 := by simp only [List.length_cons]; omega
  rw [loadProgram_accepted rfl hlen]
  have hhi := State.readByte_loaded_inside (s := State.reset) (rom := b0 :: b1 :: rest) (k := 0) (by simp)
  have hlo := State.readByte_loaded_inside (s := State.reset) (rom := b0 :: b1 :: rest) (k := 1) (by simp)
  exact ⟨rfl, fetch_of_readByte (a := 0x200) rfl (by decide) hhi hlo⟩

end Sys2Proof.Machine
end
